-- ==== Sys2Proof/Word.lean ====
section
/-! DEFINITION. Bytes, byte strings, and the fixed-length byte strings the engine's registers hold
(00_scope.md R8, R10; 40_cbc_cipher.md R101). -/

namespace Sys2Proof

/-- A byte: 8 bits (R10). -/
abbrev Byte := BitVec 8

/-- A byte string, first byte first (R10, R54). -/
abbrev Bytes := List Byte

/-- A string of exactly 4 bytes: a transaction identifier (R24), or one column of the AES state and one word of the
key schedule (R101, R105). -/
structure Quad where
  b0 : Byte
  b1 : Byte
  b2 : Byte
  b3 : Byte
  deriving DecidableEq, Repr, Inhabited

/-- A string of exactly 16 bytes: a key, an IV, a nonce, a tag, a cipher block (R8). Byte `4c + r` of the string is byte
`r` of `c<c>`, the column order of R101. -/
structure Block where
  c0 : Quad
  c1 : Quad
  c2 : Quad
  c3 : Quad
  deriving DecidableEq, Repr, Inhabited

/-- A string of exactly 2 bytes in wire order: a status pair, the last-error code (R28, R77 (e)). -/
structure StatusPair where
  b0 : Byte
  b1 : Byte
  deriving DecidableEq, Repr, Inhabited

end Sys2Proof
end

