-- ==== Sys2Proof/Config.lean ====
section
/-! DEFINITION. The constants of the engine (00_scope.md R8, R9) and the values the spec leaves open, as opaque constants
(R9, R178; 92_eei_decisions.md D15, D21, D45). -/

namespace Sys2Proof.Config

/-- `KEYLEN`, `BLK`, `IVLEN`, `TAGLEN` and `NONCELEN` of R8, all 16. -/
def blockLen : Nat := 16

/-- `MACLEN` of R8: the length of a truncated MAC. -/
def macLen : Nat := 8

/-- `KEYNO_MAX` of R8: the highest key slot index. -/
def keyNoMax : Nat := 14

/-- `MAXFIELD` of R9 (a): the longest operand field. -/
def maxField : Nat := 65535

/-- The longest operand of PAD.M2: its padded result must fit a field (R79, R154). -/
def maxPadInput : Nat := 65519

/-- The last value of the 16-bit command counter, `CTRW` of R8 (R213). -/
def lastCounter : BitVec 16 := 65535#16

/-- The status pair "success" (R8). -/
def statusSuccess : StatusPair := ⟨0x91, 0x00⟩

/-- The status pair "more data" (R8). -/
def statusMoreData : StatusPair := ⟨0x91, 0xAF⟩

/-- The label of the encryption key and of the command IV (R8). -/
def labelEnc : Bytes := [0xA5, 0x5A]

/-- The label of the MAC key and of the response IV (R8). -/
def labelMac : Bytes := [0x5A, 0xA5]

/-- `PRECOND_ERRCODE` (R9 (b), D21): open, constant per implementation. DESIGN CHOICE of form only (log 6). Safe: nothing
can be proved of its value. -/
opaque precondErrcode : StatusPair

/-- The random source's value number `n` where the model's state lists none (R178, D15). DESIGN CHOICE of form only
(log 5). Safe: nothing can be proved of its values. -/
opaque randomDraw : Nat → Block

/-- `AUTHCMD(First)` (R240, D45): open, the host's. Safe (log 8). -/
opaque authCmdFirst : Byte

/-- `AUTHCMD(NonFirst)` (R240, D45): open, the host's. Safe (log 8). -/
opaque authCmdNonFirst : Byte

/-- `AUTHCMD2` (R240, D45): open, the host's. Safe (log 8). -/
opaque authCmd2 : Byte

/-- The host's transport code, which it writes with SS.SETERR (R240 to R242, N14): open. Safe (log 8). -/
opaque transportErrcode : StatusPair

end Sys2Proof.Config
end

