-- ==== Sys2Proof/Machine/Bytes.lean ====
section
/-! DEFINITION. The byte utilities of 00_scope.md R10 to R13, the reading and writing of the fixed-length strings, and
the length-prefixed field of 30_encoding.md R72. -/

namespace Sys2Proof

/-- `ZERO(n)`: `n` bytes 00 (R10). -/
def zeros (n : Nat) : Bytes := List.replicate n 0

/-- `b[i..j)`: bytes `i` to `j - 1` (R10). -/
def slice (b : Bytes) (i j : Nat) : Bytes := (b.take j).drop i

/-- `XOR(a, b)`: byte by byte (R13). -/
def xorBytes (a b : Bytes) : Bytes := List.zipWith (· ^^^ ·) a b

/-- `RotL1(b)`: the first byte moves to the end (R13). UNVERIFIED by the spec's own account (G4, log 9). -/
def rotL1 (b : Bytes) : Bytes := b.drop 1 ++ b.take 1

/-- `RotR1(b)`: the last byte moves to the front (R13). UNVERIFIED by the spec's own account (G4, log 9). -/
def rotR1 (b : Bytes) : Bytes := b.drop (b.length - 1) ++ b.take (b.length - 1)

/-- The low `n` bytes of a number, least significant first: the engine's and the host's only integer order (R55). -/
def littleEndian : Nat → Nat → Bytes
  | 0, _ => []
  | n + 1, v => BitVec.ofNat 8 v :: littleEndian n (v / 256)

/-- `LE16(n)` (R12). -/
def le16 (n : Nat) : Bytes := littleEndian 2 n

/-- `LE24(n)` for `n < 2^24` (R12); its one use is on 24-bit numbers (log 13). -/
def le24 (n : Nat) : Bytes := littleEndian 3 n

/-- `FromLE16` of the two bytes `lo`, `hi` (R12). -/
def fromLE16 (lo hi : Byte) : Nat := lo.toNat + 256 * hi.toNat

/-- One length-prefixed field, `LE16(n) || data` (R72). A longer string than 65535 bytes has no field: the prefix written
here is then its length modulo 65536 (log 12). -/
def encodeField (b : Bytes) : Bytes := le16 b.length ++ b

/-- The 4 bytes of a quad in order. -/
def Quad.toBytes (q : Quad) : Bytes := [q.b0, q.b1, q.b2, q.b3]

/-- The first 4 bytes of a string as a quad, 00 standing for a byte the string does not have. -/
def Quad.ofBytes (b : Bytes) : Quad := ⟨b.getD 0 0, b.getD 1 0, b.getD 2 0, b.getD 3 0⟩

/-- `XOR` of two 4-byte strings (R13). -/
def Quad.xor (x y : Quad) : Quad := ⟨x.b0 ^^^ y.b0, x.b1 ^^^ y.b1, x.b2 ^^^ y.b2, x.b3 ^^^ y.b3⟩

/-- The 16 bytes of a block in order (R101). -/
def Block.toBytes (x : Block) : Bytes := x.c0.toBytes ++ x.c1.toBytes ++ x.c2.toBytes ++ x.c3.toBytes

/-- The first 16 bytes of a string as a block, 00 standing for a byte the string does not have (so a shorter string is
filled with zero bytes). -/
def Block.ofBytes (b : Bytes) : Block :=
  ⟨Quad.ofBytes b, Quad.ofBytes (b.drop 4), Quad.ofBytes (b.drop 8), Quad.ofBytes (b.drop 12)⟩

/-- A string as a block when it has exactly 16 bytes: the length test of every 16-byte operand (R79). -/
def Block.ofBytes? (b : Bytes) : Option Block :=
  if b.length = Config.blockLen then some (Block.ofBytes b) else none

/-- `XOR` of two 16-byte strings (R13). -/
def Block.xor (x y : Block) : Block := ⟨x.c0.xor y.c0, x.c1.xor y.c1, x.c2.xor y.c2, x.c3.xor y.c3⟩

/-- `ZERO(16)` (R10). -/
def Block.zero : Block := Block.ofBytes (zeros 16)

/-- A string cut into its whole 16-byte blocks, in order, and the 0 to 15 bytes left over (R110, R133). -/
def splitBlocks : Bytes → List Block × Bytes
  | b0 :: b1 :: b2 :: b3 :: b4 :: b5 :: b6 :: b7 :: b8 :: b9 :: b10 :: b11 :: b12 :: b13 :: b14 :: b15 :: rest =>
    match splitBlocks rest with
    | (blocks, left) =>
      (⟨⟨b0, b1, b2, b3⟩, ⟨b4, b5, b6, b7⟩, ⟨b8, b9, b10, b11⟩, ⟨b12, b13, b14, b15⟩⟩ :: blocks, left)
  | left => ([], left)

/-- A string as blocks when its length is a multiple of 16, 0 included: the length test of cipher data (R79). -/
def blocksOfBytes? (b : Bytes) : Option (List Block) :=
  if b.length % Config.blockLen = 0 then some (splitBlocks b).1 else none

/-- `C_0 || C_1 || ...`: blocks back to one string (R110). -/
def blocksToBytes (bs : List Block) : Bytes := bs.flatMap Block.toBytes

/-- A string as a status pair when it has exactly 2 bytes (R77 (e)). -/
def StatusPair.ofBytes? : Bytes → Option StatusPair
  | [b0, b1] => some ⟨b0, b1⟩
  | _ => none

/-- The two bytes of a status pair in wire order (R28). -/
def StatusPair.toBytes (p : StatusPair) : Bytes := [p.b0, p.b1]

end Sys2Proof
end

