-- ==== Sys2Proof/Syntax.lean ====
section
/-! DEFINITION. The 16 operations of the engine (30_encoding.md R78, R79): their codes' names, and one constructor of
`Instr` for each row of spec/opcode_table.json, with its operand fields in descriptor order. -/

namespace Sys2Proof

/-- The operation codes of R78, by name. -/
inductive Opcode where
  | cbcEnc | cbcDec | cmacGen | macTrunc | kdfSes | padM2
  | ssClear | ssStatus | ssSeterr
  | authStart | authChal | authFin
  | smIvc | smIvr | smCmd | smRsp
  deriving DecidableEq, Repr

/-- One decoded operation with its operand fields (R79). Every operand is a byte string of any length, because a wrong
length reaches the operation and is an outcome of it (R72). -/
inductive Instr where
  /-- CBC.ENC, code 01 (R112). -/
  | cbcEnc (key iv data : Bytes)
  /-- CBC.DEC, code 02 (R113). -/
  | cbcDec (key iv data : Bytes)
  /-- CMAC.GEN, code 03 (R136). -/
  | cmacGen (key msg : Bytes)
  /-- MAC.TRUNC, code 04 (R137). -/
  | macTrunc (tag : Bytes)
  /-- KDF.SES, code 05 (R152). -/
  | kdfSes (authKey randA randB : Bytes)
  /-- PAD.M2, code 06 (R154). -/
  | padM2 (data : Bytes)
  /-- SS.CLEAR, code 10 (R157). -/
  | ssClear
  /-- SS.STATUS, code 11 (R158). -/
  | ssStatus
  /-- SS.SETERR, code 12 (R159). -/
  | ssSeterr (code : Bytes)
  /-- AUTH.START, code 20 (R171). -/
  | authStart (variant keyNo authKey : Bytes)
  /-- AUTH.CHAL, code 21 (R175). Its draw is no operand (R178). -/
  | authChal (status body : Bytes)
  /-- AUTH.FIN, code 22 (R180). -/
  | authFin (status body : Bytes)
  /-- SM.IVC, code 30 (R203). -/
  | smIvc
  /-- SM.IVR, code 31 (R204). -/
  | smIvr
  /-- SM.CMD, code 32 (R205). -/
  | smCmd (cmdCode header plaintext : Bytes)
  /-- SM.RSP, code 33 (R210). -/
  | smRsp (mode status body : Bytes)
  deriving DecidableEq, Repr

/-- The operation an instruction is. -/
def Instr.opcode : Instr → Opcode
  | .cbcEnc _ _ _ => .cbcEnc
  | .cbcDec _ _ _ => .cbcDec
  | .cmacGen _ _ => .cmacGen
  | .macTrunc _ => .macTrunc
  | .kdfSes _ _ _ => .kdfSes
  | .padM2 _ => .padM2
  | .ssClear => .ssClear
  | .ssStatus => .ssStatus
  | .ssSeterr _ => .ssSeterr
  | .authStart _ _ _ => .authStart
  | .authChal _ _ => .authChal
  | .authFin _ _ => .authFin
  | .smIvc => .smIvc
  | .smIvr => .smIvr
  | .smCmd _ _ _ => .smCmd
  | .smRsp _ _ _ => .smRsp

/-- The operand fields `arg_1, arg_2, ...` in descriptor order (R50, R79). -/
def Instr.operands : Instr → List Bytes
  | .cbcEnc key iv data => [key, iv, data]
  | .cbcDec key iv data => [key, iv, data]
  | .cmacGen key msg => [key, msg]
  | .macTrunc tag => [tag]
  | .kdfSes authKey randA randB => [authKey, randA, randB]
  | .padM2 data => [data]
  | .ssClear => []
  | .ssStatus => []
  | .ssSeterr code => [code]
  | .authStart variant keyNo authKey => [variant, keyNo, authKey]
  | .authChal status body => [status, body]
  | .authFin status body => [status, body]
  | .smIvc => []
  | .smIvr => []
  | .smCmd cmdCode header plaintext => [cmdCode, header, plaintext]
  | .smRsp mode status body => [mode, status, body]

end Sys2Proof
end

