-- ==== Sys2Proof/WellFormed.lean ====
section
/-! DEFINITION. Which instructions a descriptor can carry: every operand fits the two-byte length prefix of its field
(30_encoding.md R72, 00_scope.md R9 (a)). -/

namespace Sys2Proof

/-- A byte string fits one field: `0 <= n <= 65535` (R72). -/
abbrev FitsField (b : Bytes) : Prop := b.length ≤ Config.maxField

/-- Every operand of the instruction fits its field (R72). -/
abbrev Instr.WellFormed (i : Instr) : Prop := ∀ b ∈ i.operands, FitsField b

end Sys2Proof
end

