-- ==== Sys2Proof/Decode.lean ====
section
/-! DEFINITION. The descriptor: its decoder, total on every byte string (30_encoding.md R70 to R74, R80), the encoder, and
the reading of an opcode-table word. -/

namespace Sys2Proof

/-- One row of the operation map (R78, opcode_table.json): code byte, operation, number of operand fields. -/
structure OpcodeRow where
  code : Byte
  op : Opcode
  fields : Nat
  deriving DecidableEq, Repr

/-- The operation map (R78) with the field counts of R79. -/
def opcodeTable : List OpcodeRow :=
  [⟨0x01, .cbcEnc, 3⟩, ⟨0x02, .cbcDec, 3⟩, ⟨0x03, .cmacGen, 2⟩, ⟨0x04, .macTrunc, 1⟩, ⟨0x05, .kdfSes, 3⟩,
   ⟨0x06, .padM2, 1⟩, ⟨0x10, .ssClear, 0⟩, ⟨0x11, .ssStatus, 0⟩, ⟨0x12, .ssSeterr, 1⟩, ⟨0x20, .authStart, 3⟩,
   ⟨0x21, .authChal, 2⟩, ⟨0x22, .authFin, 2⟩, ⟨0x30, .smIvc, 0⟩, ⟨0x31, .smIvr, 0⟩, ⟨0x32, .smCmd, 3⟩,
   ⟨0x33, .smRsp, 3⟩]

/-- The row of an operation code byte; none for an illegal code. The whole byte is compared (R71, R80). -/
def opcodeRow? (code : Byte) : Option OpcodeRow := opcodeTable.find? fun r => r.code == code

/-- The operation code byte of an operation (R78). -/
def Opcode.code : Opcode → Byte
  | .cbcEnc => 0x01 | .cbcDec => 0x02 | .cmacGen => 0x03 | .macTrunc => 0x04 | .kdfSes => 0x05 | .padM2 => 0x06
  | .ssClear => 0x10 | .ssStatus => 0x11 | .ssSeterr => 0x12
  | .authStart => 0x20 | .authChal => 0x21 | .authFin => 0x22
  | .smIvc => 0x30 | .smIvr => 0x31 | .smCmd => 0x32 | .smRsp => 0x33

/-- What decoding answers: an instruction, or the code it raises (R73). -/
inductive Decoded where
  /-- An operation with its fields. -/
  | instr (i : Instr)
  /-- ILLEGAL_OP: the first byte is no operation code. -/
  | illegalOp
  /-- BAD_DESCRIPTOR: empty, a field cut short, or trailing bytes. -/
  | badDescriptor
  deriving DecidableEq, Repr

/-- One field off the front of a string: its data and what follows; none where the length prefix or the data is cut
short (R72, R73). -/
def takeField : Bytes → Option (Bytes × Bytes)
  | lo :: hi :: rest =>
    if fromLE16 lo hi ≤ rest.length then some (rest.take (fromLE16 lo hi), rest.drop (fromLE16 lo hi)) else none
  | _ => none

/-- `k` fields off the front of a string (R73). -/
def takeFields : Nat → Bytes → Option (List Bytes × Bytes)
  | 0, d => some ([], d)
  | k + 1, d =>
    match takeField d with
    | none => none
    | some (arg, rest) =>
      match takeFields k rest with
      | none => none
      | some (args, left) => some (arg :: args, left)

/-- An operation with its operand fields as an instruction; none where the number of fields is not the operation's
(R79). -/
def assemble : Opcode → List Bytes → Option Instr
  | .cbcEnc, [key, iv, data] => some (.cbcEnc key iv data)
  | .cbcDec, [key, iv, data] => some (.cbcDec key iv data)
  | .cmacGen, [key, msg] => some (.cmacGen key msg)
  | .macTrunc, [tag] => some (.macTrunc tag)
  | .kdfSes, [authKey, randA, randB] => some (.kdfSes authKey randA randB)
  | .padM2, [data] => some (.padM2 data)
  | .ssClear, [] => some .ssClear
  | .ssStatus, [] => some .ssStatus
  | .ssSeterr, [code] => some (.ssSeterr code)
  | .authStart, [variant, keyNo, authKey] => some (.authStart variant keyNo authKey)
  | .authChal, [status, body] => some (.authChal status body)
  | .authFin, [status, body] => some (.authFin status body)
  | .smIvc, [] => some .smIvc
  | .smIvr, [] => some .smIvr
  | .smCmd, [cmdCode, header, plaintext] => some (.smCmd cmdCode header plaintext)
  | .smRsp, [mode, status, body] => some (.smRsp mode status body)
  | _, _ => none

/-- `Decode(d)` of R73. ILLEGAL_OP is decided on the first byte alone. -/
def decode : Bytes → Decoded
  | [] => .badDescriptor
  | code :: body =>
    match opcodeRow? code with
    | none => .illegalOp
    | some row =>
      match takeFields row.fields body with
      | some (args, []) =>
        match assemble row.op args with
        | some i => .instr i
        | none => .badDescriptor
      | _ => .badDescriptor

/-- The descriptor of a well-formed instruction, `op || field_1 || ... || field_k` (R70; any other has none: log 12). -/
def encode (i : Instr) : Bytes := i.opcode.code :: i.operands.flatMap encodeField

/-- `k` fields off a string that is followed by zero bytes without end, written out in full: the operand words an
opcode-table word leaves to zeros (log 10). -/
def zeroFillFields : Nat → Bytes → Bytes
  | 0, d => d
  | k + 1, d =>
    let n := fromLE16 (d.getD 0 0) (d.getD 1 0)
    let data := d.drop 2
    d.getD 0 0 :: d.getD 1 0 :: (data.take n ++ zeros (n - data.length)) ++ zeroFillFields k (data.drop n)

/-- The descriptor that an instruction's first bits `w` (`nbits` of them, bit 0 the least significant of the first byte)
stand for when every further bit of the instruction is 0. The descriptor path hands the engine a string of known length
(R70), so the zeros end where the instruction's last field ends (log 10). -/
def tableDescriptor (nbits w : Nat) : Bytes :=
  match littleEndian ((nbits + 7) / 8) w with
  | [] => []
  | code :: body =>
    match opcodeRow? code with
    | none => code :: body
    | some row => code :: zeroFillFields row.fields body

/-- The instruction the decoder reads from an opcode-table word. -/
def decodeTableWord (nbits w : Nat) : Option Instr :=
  match decode (tableDescriptor nbits w) with
  | .instr i => some i
  | .illegalOp => none
  | .badDescriptor => none

end Sys2Proof
end

