-- ==== Sys2Proof/Machine/Aes.lean ====
section
/-! DEFINITION. AES-128, one block under a 16-byte key (40_cbc_cipher.md R101 to R107). The spec marks this definition "from
general knowledge, not in source" and records its check (93_implementation_defined.md G1): TESTED (log 9). -/

namespace Sys2Proof.Machine

open Sys2Proof

/-- `xtime(a)`: multiplication by `x` in the field of 256 elements (R102). -/
def xtime (a : Byte) : Byte := if a.msb then (a <<< 1) ^^^ 0x1B#8 else a <<< 1

/-- `xtime` applied `n` times (R102). -/
def xtimeIter : Nat → Byte → Byte
  | 0, a => a
  | n + 1, a => xtimeIter n (xtime a)

/-- The field product `a * b` (R102): the exclusive or of `xtime^i(a)` over the bits `i` of `b` that are 1. -/
def gmul (a b : Byte) : Byte :=
  (List.range 8).foldl (fun acc i => if b.getLsbD i then acc ^^^ xtimeIter i a else acc) 0

/-- The rows of the substitution box as printed (R103): row `x` holds `S(x0) .. S(xF)`, first byte highest. -/
def sboxRows : List Nat :=
  [0x637C777BF26B6FC53001672BFED7AB76, 0xCA82C97DFA5947F0ADD4A2AF9CA472C0,
   0xB7FD9326363FF7CC34A5E5F171D83115, 0x04C723C31896059A071280E2EB27B275,
   0x09832C1A1B6E5AA0523BD6B329E32F84, 0x53D100ED20FCB15B6ACBBE394A4C58CF,
   0xD0EFAAFB434D338545F9027F503C9FA8, 0x51A3408F929D38F5BCB6DA2110FFF3D2,
   0xCD0C13EC5F974417C4A77E3D645D1973, 0x60814FDC222A908846EEB814DE5E0BDB,
   0xE0323A0A4906245CC2D3AC629195E479, 0xE7C8376D8DD54EA96C56F4EA657AAE08,
   0xBA78252E1CA6B4C6E8DD741F4BBD8B8A, 0x703EB5664803F60E613557B986C11D9E,
   0xE1F8981169D98E949B1E87E9CE5528DF, 0x8CA1890DBFE6426841992D0FB054BB16]

/-- The rows of the inverse substitution box as printed (R104). -/
def invSboxRows : List Nat :=
  [0x52096AD53036A538BF40A39E81F3D7FB, 0x7CE339829B2FFF87348E4344C4DEE9CB,
   0x547B9432A6C2233DEE4C950B42FAC34E, 0x082EA16628D924B2765BA2496D8BD125,
   0x72F8F66486689816D4A45CCC5D65B692, 0x6C704850FDEDB9DA5E154657A78D9D84,
   0x90D8AB008CBCD30AF7E45805B8B34506, 0xD02C1E8FCA3F0F02C1AFBD0301138A6B,
   0x3A9111414F67DCEA97F2CFCEF0B4E673, 0x96AC7422E7AD3585E2F937E81C75DF6E,
   0x47F11A711D29C5896FB7620EAA18BE1B, 0xFC563E4BC6D279209ADBC0FE78CD5AF4,
   0x1FDDA8338807C731B11210592780EC5F, 0x60517FA919B54A0D2DE57A9F93C99CEF,
   0xA0E03B4DAE2AF5B0C8EBBB3C83539961, 0x172B047EBA77D626E169146355210C7D]

/-- The byte at row `a div 16`, column `a mod 16` of a table of 16 rows of 16 bytes. -/
def tableByte (rows : List Nat) (a : Byte) : Byte :=
  BitVec.ofNat 8 (rows.getD (a.toNat / 16) 0 >>> (8 * (15 - a.toNat % 16)))

/-- `S(a)` (R103). -/
def sbox (a : Byte) : Byte := tableByte sboxRows a

/-- `IS(a)` (R104). -/
def invSbox (a : Byte) : Byte := tableByte invSboxRows a

/-- RotWord (R105): the first byte of a word moves to the end. -/
def rotWord (t : Quad) : Quad := ⟨t.b1, t.b2, t.b3, t.b0⟩

/-- SubWord (R105), and SubBytes on one column (R106). -/
def subWord (t : Quad) : Quad := ⟨sbox t.b0, sbox t.b1, sbox t.b2, sbox t.b3⟩

/-- InvSubBytes on one column (R106). -/
def invSubWord (t : Quad) : Quad := ⟨invSbox t.b0, invSbox t.b1, invSbox t.b2, invSbox t.b3⟩

/-- `Rcon[1..10]` (R105). -/
def rcon : List Byte := [0x01, 0x02, 0x04, 0x08, 0x10, 0x20, 0x40, 0x80, 0x1B, 0x36]

/-- The four words `w[4r] .. w[4r+3]` from the four before them (R105): `Rcon[r]` enters the first, and each of the others
is the word four back exclusive-ored with the word before it. -/
def nextRoundKey (rk : Block) (rc : Byte) : Block :=
  let w0 := rk.c0.xor ((subWord (rotWord rk.c3)).xor ⟨rc, 0, 0, 0⟩)
  let w1 := rk.c1.xor w0
  let w2 := rk.c2.xor w1
  let w3 := rk.c3.xor w2
  ⟨w0, w1, w2, w3⟩

/-- The round keys that follow `rk`, one for each round constant (R105). -/
def expandFrom (rk : Block) : List Byte → List Block
  | [] => []
  | rc :: rest => nextRoundKey rk rc :: expandFrom (nextRoundKey rk rc) rest

/-- `rk[1] .. rk[10]` of a key; `rk[0]` is the key itself (R105). -/
def roundKeys (k : Block) : List Block := expandFrom k rcon

/-- `SubBytes` (R106). -/
def subBytes (s : Block) : Block := ⟨subWord s.c0, subWord s.c1, subWord s.c2, subWord s.c3⟩

/-- `InvSubBytes` (R106). -/
def invSubBytes (s : Block) : Block := ⟨invSubWord s.c0, invSubWord s.c1, invSubWord s.c2, invSubWord s.c3⟩

/-- `ShiftRows` (R106): byte `r` of column `c` comes from column `(c + r) mod 4`. -/
def shiftRows (s : Block) : Block :=
  ⟨⟨s.c0.b0, s.c1.b1, s.c2.b2, s.c3.b3⟩, ⟨s.c1.b0, s.c2.b1, s.c3.b2, s.c0.b3⟩,
   ⟨s.c2.b0, s.c3.b1, s.c0.b2, s.c1.b3⟩, ⟨s.c3.b0, s.c0.b1, s.c1.b2, s.c2.b3⟩⟩

/-- `InvShiftRows` (R106): byte `r` of column `c` comes from column `(c - r) mod 4`. -/
def invShiftRows (s : Block) : Block :=
  ⟨⟨s.c0.b0, s.c3.b1, s.c2.b2, s.c1.b3⟩, ⟨s.c1.b0, s.c0.b1, s.c3.b2, s.c2.b3⟩,
   ⟨s.c2.b0, s.c1.b1, s.c0.b2, s.c3.b3⟩, ⟨s.c3.b0, s.c2.b1, s.c1.b2, s.c0.b3⟩⟩

/-- `MixColumns` on one column (R106). -/
def mixColumn (a : Quad) : Quad :=
  ⟨gmul a.b0 0x02 ^^^ gmul a.b1 0x03 ^^^ a.b2 ^^^ a.b3,
   a.b0 ^^^ gmul a.b1 0x02 ^^^ gmul a.b2 0x03 ^^^ a.b3,
   a.b0 ^^^ a.b1 ^^^ gmul a.b2 0x02 ^^^ gmul a.b3 0x03,
   gmul a.b0 0x03 ^^^ a.b1 ^^^ a.b2 ^^^ gmul a.b3 0x02⟩

/-- `InvMixColumns` on one column (R106). -/
def invMixColumn (a : Quad) : Quad :=
  ⟨gmul a.b0 0x0E ^^^ gmul a.b1 0x0B ^^^ gmul a.b2 0x0D ^^^ gmul a.b3 0x09,
   gmul a.b0 0x09 ^^^ gmul a.b1 0x0E ^^^ gmul a.b2 0x0B ^^^ gmul a.b3 0x0D,
   gmul a.b0 0x0D ^^^ gmul a.b1 0x09 ^^^ gmul a.b2 0x0E ^^^ gmul a.b3 0x0B,
   gmul a.b0 0x0B ^^^ gmul a.b1 0x0D ^^^ gmul a.b2 0x09 ^^^ gmul a.b3 0x0E⟩

/-- `MixColumns` (R106). -/
def mixColumns (s : Block) : Block := ⟨mixColumn s.c0, mixColumn s.c1, mixColumn s.c2, mixColumn s.c3⟩

/-- `InvMixColumns` (R106). -/
def invMixColumns (s : Block) : Block :=
  ⟨invMixColumn s.c0, invMixColumn s.c1, invMixColumn s.c2, invMixColumn s.c3⟩

/-- The rounds of `AES_Enc` on the round keys still to come; the last has no `MixColumns` (R106). -/
def encRounds : List Block → Block → Block
  | [], s => s
  | [rk], s => (shiftRows (subBytes s)).xor rk
  | rk :: rest, s => encRounds rest ((mixColumns (shiftRows (subBytes s))).xor rk)

/-- `AES_Enc(k, x)` (R106). -/
def aesEnc (k x : Block) : Block := encRounds (roundKeys k) (x.xor k)

/-- The rounds of `AES_Dec` undone from the last round key back: the list is `rk[1] .. rk[10]` from the front, so its last
key is undone first, without `InvMixColumns` before it (R107). -/
def decRounds : List Block → Block → Block
  | [], s => s
  | [rk], s => invSubBytes (invShiftRows (s.xor rk))
  | rk :: rest, s => invSubBytes (invShiftRows (invMixColumns ((decRounds rest s).xor rk)))

/-- `AES_Dec(k, y)` (R107). -/
def aesDec (k y : Block) : Block := (decRounds (roundKeys k) y).xor k

end Sys2Proof.Machine
end

