-- ==== Sys2Proof/Machine/Cbc.lean ====
section
/-! DEFINITION. CBC chaining on whole blocks (40_cbc_cipher.md R110, R111). -/

namespace Sys2Proof.Machine

open Sys2Proof

/-- `CBC_Enc(iv, k, p)` on the blocks of `p` (R110): each block is chained on the ciphertext block before it. -/
def cbcEncBlocks (k : Block) : Block → List Block → List Block
  | _, [] => []
  | prev, p :: rest => aesEnc k (p.xor prev) :: cbcEncBlocks k (aesEnc k (p.xor prev)) rest

/-- `CBC_Dec(iv, k, c)` on the blocks of `c` (R111): each block is chained on the CIPHERTEXT block before it. -/
def cbcDecBlocks (k : Block) : Block → List Block → List Block
  | _, [] => []
  | prev, c :: rest => (aesDec k c).xor prev :: cbcDecBlocks k c rest

/-- `CBC_Enc(iv, k, p)` for a string of a multiple of 16 bytes (R110). -/
def cbcEnc (iv k : Block) (p : Bytes) : Bytes := blocksToBytes (cbcEncBlocks k iv (splitBlocks p).1)

/-- `CBC_Dec(iv, k, c)` for a string of a multiple of 16 bytes (R111). -/
def cbcDec (iv k : Block) (c : Bytes) : Bytes := blocksToBytes (cbcDecBlocks k iv (splitBlocks c).1)

end Sys2Proof.Machine
end

