-- ==== Sys2Proof/Machine/Cmac.lean ====
section
/-! DEFINITION. AES-CMAC and the 8-byte truncation (41_cmac.md R131 to R135). The spec marks R131 to R133 "from general
knowledge, not in source" and records their check (93_implementation_defined.md G3): TESTED (log 9). -/

namespace Sys2Proof.Machine

open Sys2Proof

/-- A 16-byte string as a 128-bit number, first byte the most significant (R131). -/
def Block.toNumber (x : Block) : BitVec 128 :=
  x.toBytes.foldl (fun acc b => (acc <<< 8) ||| b.zeroExtend 128) 0

/-- A 128-bit number as a 16-byte string, most significant byte first (R131). -/
def Block.ofNumber (v : BitVec 128) : Block := Block.ofBytes (littleEndian 16 v.toNat).reverse

/-- `Dbl(b)` (R131): shift left by one bit; when the bit dropped was 1, exclusive-or the last byte with `87`. -/
def dbl (x : Block) : Block :=
  let v := Block.toNumber x
  Block.ofNumber (if v.msb then (v <<< 1) ^^^ 0x87#128 else v <<< 1)

/-- The subkey `K1 = Dbl(AES_Enc(k, ZERO(16)))` (R132). -/
def subkey1 (k : Block) : Block := dbl (aesEnc k Block.zero)

/-- The subkey `K2 = Dbl(K1)` (R132). -/
def subkey2 (k : Block) : Block := dbl (subkey1 k)

/-- `X <- AES_Enc(k, XOR(X, M_i))` over a list of blocks (R133). -/
def cbcMac (k x : Block) (ms : List Block) : Block := ms.foldl (fun acc m => aesEnc k (acc.xor m)) x

/-- The message cut into the blocks before the last and `M_last` (R133): a complete final block takes `K1`; an incomplete
or empty one is filled with `80` and zero bytes and takes `K2`. -/
def cmacBlocks (k : Block) (m : Bytes) : List Block × Block :=
  match splitBlocks m with
  | (blocks, left) =>
    match left, blocks.getLast? with
    | [], some last => (blocks.dropLast, last.xor (subkey1 k))
    | _, _ => (blocks, (Block.ofBytes (left ++ [0x80] ++ zeros (15 - left.length))).xor (subkey2 k))

/-- `CMAC(k, m)` (R133), for a message of any length. -/
def cmac (k : Block) (m : Bytes) : Block :=
  match cmacBlocks k m with
  | (front, last) => aesEnc k ((cbcMac k Block.zero front).xor last)

/-- `Trunc(t)` (R135): the bytes of the tag at odd indices, in order. -/
def trunc (t : Block) : Bytes := [t.c0.b1, t.c0.b3, t.c1.b1, t.c1.b3, t.c2.b1, t.c2.b3, t.c3.b1, t.c3.b3]

end Sys2Proof.Machine
end

