-- ==== Sys2Proof/Machine/Derive.lean ====
section
/-! DEFINITION. The session key derivation and the Method-2 padding (42_session_state_ops.md R150, R151, R153), the derived
IVs and the MACs of the secure codec (44_secure_codec.md R200, R201, R207, R216). -/

namespace Sys2Proof.Machine

open Sys2Proof

/-- `SV(label, randA, randB)` (R150): the 32-byte derivation input. -/
def derivationInput (label randA randB : Bytes) : Bytes :=
  label ++ [0x00, 0x01] ++ [0x00, 0x80]
    ++ slice randA 0 2
    ++ xorBytes (slice randA 2 8) (slice randB 0 6)
    ++ slice randB 6 16
    ++ slice randA 8 16

/-- The session key of one label: `CMAC(authKey, SV(label, randA, randB))` (R151). -/
def sessionKey (label : Bytes) (authKey randA randB : Block) : Block :=
  cmac authKey (derivationInput label randA.toBytes randB.toBytes)

/-- The encryption key of `KDF(authKey, randA, randB)` (R151). -/
def kdfEncKey (authKey randA randB : Block) : Block := sessionKey Config.labelEnc authKey randA randB

/-- The MAC key of `KDF(authKey, randA, randB)` (R151). -/
def kdfMacKey (authKey randA randB : Block) : Block := sessionKey Config.labelMac authKey randA randB

/-- `Pad(d)` (R153). -/
def padM2 (d : Bytes) : Bytes := d ++ [0x80] ++ zeros (15 - d.length % 16)

/-- A counter value as it enters IVs and MACs: `LE16(n)` (R55). -/
def counterBytes (n : BitVec 16) : Bytes := le16 n.toNat

/-- The input block of a derived IV: `label || ti || LE16(n) || ZERO(8)` (R200, R201). -/
def ivInput (label : Bytes) (ti : Quad) (n : BitVec 16) : Block :=
  Block.ofBytes (label ++ ti.toBytes ++ counterBytes n ++ zeros 8)

/-- `IVC(ek, ti, n)`: the command IV (R200). -/
def commandIv (ek : Block) (ti : Quad) (n : BitVec 16) : Block := aesEnc ek (ivInput Config.labelEnc ti n)

/-- `IVR(ek, ti, n)`: the response IV (R201). -/
def responseIv (ek : Block) (ti : Quad) (n : BitVec 16) : Block := aesEnc ek (ivInput Config.labelMac ti n)

/-- The command MAC (R207): `Trunc(CMAC(mk, cmdCode || LE16(c) || ti || header || encPayload))`. -/
def commandMac (mk : Block) (cmdCode : Byte) (c : BitVec 16) (ti : Quad) (header encPayload : Bytes) : Bytes :=
  trunc (cmac mk ([cmdCode] ++ counterBytes c ++ ti.toBytes ++ header ++ encPayload))

/-- The response MAC (R216): `Trunc(CMAC(mk, 00 || LE16(n) || ti || rdata))`. -/
def responseMac (mk : Block) (n : BitVec 16) (ti : Quad) (rdata : Bytes) : Bytes :=
  trunc (cmac mk ([0x00] ++ counterBytes n ++ ti.toBytes ++ rdata))

end Sys2Proof.Machine
end

