-- ==== Sys2Proof/Machine/State.lean ====
section
/-! DEFINITION. The engine's whole state as plain data (10_state.md R45), the result record (30_encoding.md R75,
60_exceptions.md R260), the host's inputs, the reasons a step could stop, and the reset state (70_reset_and_hazards.md
R300). -/

namespace Sys2Proof.Machine

open Sys2Proof

/-- `HSPHASE` (R38). -/
inductive Phase where
  /-- IDLE (0): no handshake. -/
  | idle
  /-- WAIT_RNDB (1): AUTH.START done, the card's first reply awaited. -/
  | waitRndB
  /-- WAIT_FINAL (2): AUTH.CHAL done, the card's final reply awaited. -/
  | waitFinal
  deriving DecidableEq, Repr

/-- The two entry points of the handshake (R38, R170, R171). -/
inductive Variant where
  /-- First, `00`. -/
  | first
  /-- NonFirst, `01`. -/
  | nonFirst
  deriving DecidableEq, Repr

/-- The `mode` operand of SM.RSP (R211). -/
inductive RespMode where
  /-- `00`: the response data is not enciphered. -/
  | plain
  /-- `01`: the response data is enciphered. -/
  | enciphered
  deriving DecidableEq, Repr

/-- The result codes of R260. -/
inductive ResultCode where
  | ok | illegalOp | badDescriptor | keyLength | operandLength | badOperandValue | precondition | protocolStatus
  | malformedResponse | authFailed | responseMacFailed | counterExhausted
  deriving DecidableEq, Repr

/-- A result record `(rc, out_1, ..., out_m)` (R16, R75). -/
structure Result where
  rc : ResultCode
  outs : List Bytes
  deriving DecidableEq, Repr

/-- What reaches the engine from outside between two operations (R51, R301). -/
inductive HostInput where
  /-- The host offers one descriptor (R70). -/
  | descriptor (d : Bytes)
  /-- Power-on, an external reset signal or loss of power (R301). -/
  | reset
  deriving DecidableEq, Repr

/-- The registers whose value a rule can need (R14). -/
inductive RegName where
  | sesEncKey | sesMacKey | cmdCtr | ti | hsVariant | hsKeyNo | hsAuthKey | hsRndA | hsRndB
  deriving DecidableEq, Repr

/-- Why a step stops with a fault. -/
inductive Fault where
  /-- Raised by `readReg`: a rule needs the value of a register that holds None. R14: this "never happens in a correct
  rule"; it takes a state that breaks the invariants R31 or R38, which no run reaches. Safe: the model stops (log 7). -/
  | emptyRegister (r : RegName)
  deriving DecidableEq, Repr

/-- Why an instruction has no meaning. -/
inductive Refusal where
  /-- Raised by an arm of `exec` for an instruction without a meaning; no arm does. Safe: the model stops. -/
  | notModelled (mnemonic : String)
  deriving DecidableEq, Repr

/-- The state of the engine: the fourteen registers of R45, then the model's own fields for the three data paths of R51.
A register that can be cleared is `none` when empty (R20). -/
structure State where
  /-- `SESENCKEY` (R21). -/
  sesEncKey : Option Block
  /-- `SESMACKEY` (R22). -/
  sesMacKey : Option Block
  /-- `CMDCTR` (R23). -/
  cmdCtr : Option (BitVec 16)
  /-- `TI` (R24). -/
  ti : Option Quad
  /-- `AUTHFIRST` (R25). -/
  authFirst : Bool
  /-- `AUTHNONFIRST` (R26). -/
  authNonFirst : Bool
  /-- `KEYNO`, 0 to 14 (R27). -/
  keyNo : Option (Fin 15)
  /-- `LASTERR` (R28). -/
  lastErr : Option StatusPair
  /-- `HSPHASE` (R38). -/
  hsPhase : Phase
  /-- `HSVARIANT` (R38). -/
  hsVariant : Option Variant
  /-- `HSKEYNO`, 0 to 14 (R38). -/
  hsKeyNo : Option (Fin 15)
  /-- `HSAUTHKEY` (R38). -/
  hsAuthKey : Option Block
  /-- `HSRNDA` (R38). -/
  hsRndA : Option Block
  /-- `HSRNDB` (R38). -/
  hsRndB : Option Block
  /-- The model's: what the host and the reset source are going to do, oldest first (R51 (a); log 1). -/
  inputs : List HostInput
  /-- The model's: the result record of the last operation (R51 (b), R75; log 4). -/
  result : Option Result
  /-- The model's: the values the random source is going to deliver, where given (R51 (c), R178; log 5). -/
  draws : List Block
  /-- The model's: how many draws have been consumed (R178; log 5). -/
  drawCount : Nat
  deriving DecidableEq, Repr

/-- The state right after reset: every register as R300 states it; the model's own fields empty (logs 1, 4, 5). -/
def State.reset : State where
  sesEncKey := none
  sesMacKey := none
  cmdCtr := none
  ti := none
  authFirst := false
  authNonFirst := false
  keyNo := none
  lastErr := none
  hsPhase := .idle
  hsVariant := none
  hsKeyNo := none
  hsAuthKey := none
  hsRndA := none
  hsRndB := none
  inputs := []
  result := none
  draws := []
  drawCount := 0

/-- What a step answers. -/
abbrev StepOutcome := Host.Outcome State Fault Refusal

end Sys2Proof.Machine
end

