-- ==== Sys2Proof/Machine/Ops.lean ====
section
/-! DEFINITION. The named operations over the registers: the clear actions (10_state.md R32, R33, R40), the register writes
each rule names, ending an operation with a result record or with `raise` (60_exceptions.md R262), reading a register
whose value a rule needs (R14), the draw (R178), and the reset between operations (70_reset_and_hazards.md R301). -/

namespace Sys2Proof.Machine

open Sys2Proof

/-- The byte of a result code (R260). -/
def ResultCode.toByte : ResultCode → Byte
  | .ok => 0x00 | .illegalOp => 0x01 | .badDescriptor => 0x02 | .keyLength => 0x03 | .operandLength => 0x04
  | .badOperandValue => 0x05 | .precondition => 0x06 | .protocolStatus => 0x07 | .malformedResponse => 0x08
  | .authFailed => 0x09 | .responseMacFailed => 0x0A | .counterExhausted => 0x0B

/-- The result record as the byte string on the result path, `rc || ofield_1 || ...` (R75). -/
def Result.toBytes (r : Result) : Bytes := r.rc.toByte :: r.outs.flatMap encodeField

/-- `LASTERR <- Some(p)` (R28). -/
def State.setLastErr (s : State) (p : StatusPair) : State := { s with lastErr := some p }

/-- `CMDCTR <- Some(n)` (R214). -/
def State.setCmdCtr (s : State) (n : BitVec 16) : State := { s with cmdCtr := some n }

/-- `ClearScratch()` (R40). -/
def State.clearScratch (s : State) : State :=
  { s with hsPhase := .idle, hsVariant := none, hsKeyNo := none, hsAuthKey := none, hsRndA := none, hsRndB := none }

/-- `ClearForNonFirst()` (R33): the keys, the key number, the flags and the scratch; not CMDCTR, TI, LASTERR. -/
def State.clearForNonFirst (s : State) : State :=
  { s.clearScratch with sesEncKey := none, sesMacKey := none, keyNo := none, authFirst := false, authNonFirst := false }

/-- `ClearSession()` (R32): everything but LASTERR. -/
def State.clearSession (s : State) : State :=
  { s.clearScratch with
    sesEncKey := none, sesMacKey := none, cmdCtr := none, ti := none, keyNo := none,
    authFirst := false, authNonFirst := false }

/-- The writes that open a handshake, after the clear action (R171). -/
def State.openHandshake (s : State) (v : Variant) (keyNo : Fin 15) (authKey : Block) : State :=
  { s with hsVariant := some v, hsKeyNo := some keyNo, hsAuthKey := some authKey, hsPhase := .waitRndB }

/-- The two nonces go to the scratch and the handshake waits for the final reply (R175, R179). -/
def State.saveNonces (s : State) (randA randB : Block) : State :=
  { s with hsRndA := some randA, hsRndB := some randB, hsPhase := .waitFinal }

/-- The commit of a First authentication, scratch cleared (R180, R185). -/
def State.commitFirst (s : State) (encKey macKey : Block) (keyNo : Fin 15) (ti : Quad) : State :=
  { s.clearScratch with
    sesEncKey := some encKey, sesMacKey := some macKey, keyNo := some keyNo, cmdCtr := some 0, ti := some ti,
    authFirst := true, authNonFirst := false }

/-- The commit of a NonFirst authentication, scratch cleared; CMDCTR and TI stay (R180, R185). -/
def State.commitNonFirst (s : State) (encKey macKey : Block) (keyNo : Fin 15) : State :=
  { s.clearScratch with
    sesEncKey := some encKey, sesMacKey := some macKey, keyNo := some keyNo, authFirst := false, authNonFirst := true }

/-- The result record is put on the result path (R75). -/
def State.deliver (s : State) (r : Result) : State := { s with result := some r }

/-- An operation that ends with OK and its output fields (R75, R79). -/
def finish (outs : List Bytes) (s : State) : StepOutcome := .next (s.deliver ⟨.ok, outs⟩)

/-- `raise <code>` (R262): the operation ends, the record is the code alone, the writes made so far stay. TAKING A FAILURE
is this one operation; there is nothing to return from (R280, R281). -/
def raise (code : ResultCode) (s : State) : StepOutcome := .next (s.deliver ⟨code, []⟩)

/-- `raise PROTOCOL_STATUS(status)`: the record carries the status pair (R75, R262). -/
def raiseStatus (status : StatusPair) (s : State) : StepOutcome :=
  .next (s.deliver ⟨.protocolStatus, [status.toBytes]⟩)

/-- `LASTERR <- Some(PRECOND_ERRCODE); raise PRECONDITION` (R265). -/
def raisePrecondition (s : State) : StepOutcome := raise .precondition (s.setLastErr Config.precondErrcode)

/-- The value of a register that a rule needs. An empty one "never happens in a correct rule" (R14): a fault (log 7). -/
def readReg {α : Type} (name : RegName) (reg : Option α) (body : α → StepOutcome) : StepOutcome :=
  match reg with
  | some v => body v
  | none => .fault (.emptyRegister name)

/-- `draw(16)` (R178): the next value the random source delivers. Where the state lists none it is the free value of this
draw's number (log 5). -/
def State.nextDraw (s : State) : Block :=
  match s.draws with
  | d :: _ => d
  | [] => Config.randomDraw s.drawCount

/-- The draw is consumed: on the OK path of AUTH.CHAL only (R178). -/
def State.consumeDraw (s : State) : State := { s with draws := s.draws.tail, drawCount := s.drawCount + 1 }

/-- The state with the inputs that remain after the oldest has been taken (R62). -/
def State.withInputs (s : State) (rest : List HostInput) : State := { s with inputs := rest }

/-- A reset between two operations (R300, R301): every register at its reset value, nothing on the result path; what the
outside world is going to do stays (log 3). -/
def State.applyReset (s : State) : State :=
  { State.reset with inputs := s.inputs, draws := s.draws, drawCount := s.drawCount }

end Sys2Proof.Machine
end

