-- ==== Sys2Proof/Machine/Operands.lean ====
section
/-! DEFINITION. The operand forms (30_encoding.md R77, R79): each test of a length or a value that an operation makes on a
field, with the code it raises (60_exceptions.md R260, R264). -/

namespace Sys2Proof.Machine

open Sys2Proof

/-- A key operand: 16 bytes, else KEY_LENGTH (R79). -/
def withKey (field : Bytes) (s : State) (body : Block → StepOutcome) : StepOutcome :=
  match Block.ofBytes? field with
  | some k => body k
  | none => raise .keyLength s

/-- Another 16-byte operand (an IV, a tag, a nonce): else OPERAND_LENGTH (R79). -/
def withBlock (field : Bytes) (s : State) (body : Block → StepOutcome) : StepOutcome :=
  match Block.ofBytes? field with
  | some b => body b
  | none => raise .operandLength s

/-- Cipher data: a multiple of 16 bytes, 0 included, else OPERAND_LENGTH (R79). -/
def withCipherData (field : Bytes) (s : State) (body : Bytes → StepOutcome) : StepOutcome :=
  if field.length % Config.blockLen = 0 then body field else raise .operandLength s

/-- A one-byte operand: else OPERAND_LENGTH (R77 (b) to (d), R79). -/
def withByte (field : Bytes) (s : State) (body : Byte → StepOutcome) : StepOutcome :=
  match field with
  | [b] => body b
  | _ => raise .operandLength s

/-- A two-byte operand, a status pair or an error code: else OPERAND_LENGTH (R77 (e), R79). -/
def withPair (field : Bytes) (s : State) (body : StatusPair → StepOutcome) : StepOutcome :=
  match StatusPair.ofBytes? field with
  | some p => body p
  | none => raise .operandLength s

/-- The handshake variant of a selector byte; none for a reserved value (R77 (b), R81). -/
def Variant.ofByte? (b : Byte) : Option Variant :=
  if b = 0x00 then some .first else if b = 0x01 then some .nonFirst else none

/-- The response mode of a selector byte; none for a reserved value (R77 (b), R81). -/
def RespMode.ofByte? (b : Byte) : Option RespMode :=
  if b = 0x00 then some .plain else if b = 0x01 then some .enciphered else none

/-- The key number of a byte: an unsigned integer, none above 14 (R77 (c), R81). -/
def keyNo? (b : Byte) : Option (Fin 15) :=
  if b.toNat ≤ Config.keyNoMax then some (Fin.ofNat 15 b.toNat) else none

/-- The byte of a key number (R158, R174). -/
def keyNoByte (n : Fin 15) : Byte := BitVec.ofNat 8 n.val

/-- The `variant` operand's value, else BAD_OPERAND_VALUE (R171). -/
def withVariant (b : Byte) (s : State) (body : Variant → StepOutcome) : StepOutcome :=
  match Variant.ofByte? b with
  | some v => body v
  | none => raise .badOperandValue s

/-- The `mode` operand's value, else BAD_OPERAND_VALUE (R210). -/
def withMode (b : Byte) (s : State) (body : RespMode → StepOutcome) : StepOutcome :=
  match RespMode.ofByte? b with
  | some m => body m
  | none => raise .badOperandValue s

/-- The `keyNo` operand's value, else BAD_OPERAND_VALUE (R171). -/
def withKeyNo (b : Byte) (s : State) (body : Fin 15 → StepOutcome) : StepOutcome :=
  match keyNo? b with
  | some n => body n
  | none => raise .badOperandValue s

end Sys2Proof.Machine
end

