-- ==== Sys2Proof/Machine/Flags.lean ====
section
/-! DEFINITION. The authentication flags: the gate of the secured operations (10_state.md R31, 44_secure_codec.md R202), and
the status bytes of SS.STATUS with their flag byte (42_session_state_ops.md R158). The engine computes no condition codes
(10_state.md R37). -/

namespace Sys2Proof.Machine

open Sys2Proof

/-- `Authenticated`: `AUTHFIRST = 1 or AUTHNONFIRST = 1` (R31). -/
def State.authenticated (s : State) : Bool := s.authFirst || s.authNonFirst

/-- The gate of the secured operations (R202). -/
def gated (s : State) (body : StepOutcome) : StepOutcome := if s.authenticated then body else raisePrecondition s

/-- The number of a handshake phase (R38). -/
def Phase.toByte : Phase → Byte
  | .idle => 0x00
  | .waitRndB => 0x01
  | .waitFinal => 0x02

/-- The flag byte `status[0]`: bit 0 first, bit 7 reserved 0 (R158). -/
def statusFlags (s : State) : Byte :=
  BitVec.ofBoolListLE
    [s.authFirst, s.authNonFirst, s.sesEncKey.isSome && s.sesMacKey.isSome, s.cmdCtr.isSome, s.ti.isSome,
     s.keyNo.isSome, s.lastErr.isSome, false]

/-- The 11 bytes of SS.STATUS; an empty register reads as zero bytes (R158). -/
def statusBytes (s : State) : Bytes :=
  [statusFlags s, s.hsPhase.toByte, (s.keyNo.map keyNoByte).getD 0]
    ++ le16 ((s.cmdCtr.map BitVec.toNat).getD 0)
    ++ (s.ti.map Quad.toBytes).getD (zeros 4)
    ++ (s.lastErr.map StatusPair.toBytes).getD (zeros 2)

end Sys2Proof.Machine
end

