-- ==== Sys2Proof/Machine/Authentication.lean ====
section
/-! DEFINITION. The authentication handshake: AUTH.START, AUTH.CHAL, AUTH.FIN (43_authentication.md R171 to R185). -/

namespace Sys2Proof.Machine

open Sys2Proof

/-- A NonFirst start needs a prior First: `valid(CMDCTR) and valid(TI)` (R172). -/
def State.hasPriorFirst (s : State) : Bool := s.cmdCtr.isSome && s.ti.isSome

/-- The parameter bytes of AUTH.START (R174). -/
def startParam (v : Variant) (keyNo : Fin 15) : Bytes :=
  match v with
  | .first => [keyNoByte keyNo, 0x00]
  | .nonFirst => [keyNoByte keyNo]

/-- What AUTH.START clears (R173). -/
def State.clearForStart (s : State) (v : Variant) : State :=
  match v with
  | .first => s.clearSession
  | .nonFirst => s.clearForNonFirst

/-- AUTH.START (R171). -/
def execAuthStart (variant keyNo authKey : Bytes) (s : State) : StepOutcome :=
  withByte variant s fun vb =>
  withByte keyNo s fun nb =>
  withKey authKey s fun k =>
  withVariant vb s fun v =>
  withKeyNo nb s fun n =>
  if v = .nonFirst ∧ s.hasPriorFirst = false then raisePrecondition s
  else finish [startParam v n] ((s.clearForStart v).openHandshake v n k)

/-- A handshake that fails after its phase check: everything is cleared (R177, R182, R184, R188). -/
def failHandshake (code : ResultCode) (s : State) : StepOutcome := raise code s.clearSession

/-- A handshake reply with the wrong status pair: everything is cleared, the record carries the pair (R177, R182). -/
def failHandshakeStatus (status : StatusPair) (s : State) : StepOutcome := raiseStatus status s.clearSession

/-- The second message: `CBC_Enc(ZERO(16), authKey, randA || RotL1(randB))` (R175, R179). -/
def secondMessage (authKey randA randB : Block) : Bytes :=
  cbcEnc Block.zero authKey (randA.toBytes ++ rotL1 randB.toBytes)

/-- AUTH.CHAL (R175). -/
def execAuthChal (status body : Bytes) (s : State) : StepOutcome :=
  withPair status s fun st =>
  if s.hsPhase ≠ .waitRndB then raisePrecondition s
  else
    let s1 := s.setLastErr st
    if st ≠ Config.statusMoreData then failHandshakeStatus st s1
    else if body.length ≠ Config.blockLen then failHandshake .malformedResponse s1
    else
      readReg .hsAuthKey s.hsAuthKey fun k =>
      let randB := Block.ofBytes (cbcDec Block.zero k body)
      let randA := s.nextDraw
      finish [secondMessage k randA randB] ((s1.consumeDraw).saveNonces randA randB)

/-- The length of the card's final reply (R182). -/
def finalReplyLen (v : Variant) : Nat :=
  match v with
  | .first => 32
  | .nonFirst => 16

/-- `randA_rot_received` in the deciphered final reply (R180, R183). -/
def receivedRot (v : Variant) (plain : Bytes) : Bytes :=
  match v with
  | .first => slice plain 4 20
  | .nonFirst => slice plain 0 16

/-- The capability bytes in the deciphered final reply (R180, R183). -/
def receivedCaps (v : Variant) (plain : Bytes) : Bytes :=
  match v with
  | .first => slice plain 20 32
  | .nonFirst => []

/-- The commit of step 8, by variant (R185): the new keys and key number, for First also the counter and the transaction
identifier of the deciphered reply. -/
def State.commitSession (s : State) (v : Variant) (encKey macKey : Block) (keyNo : Fin 15) (plain : Bytes) : State :=
  match v with
  | .first => s.commitFirst encKey macKey keyNo (Quad.ofBytes (slice plain 0 4))
  | .nonFirst => s.commitNonFirst encKey macKey keyNo

/-- AUTH.FIN (R180). -/
def execAuthFin (status body : Bytes) (s : State) : StepOutcome :=
  withPair status s fun st =>
  if s.hsPhase ≠ .waitFinal then raisePrecondition s
  else
    let s1 := s.setLastErr st
    if st ≠ Config.statusSuccess then failHandshakeStatus st s1
    else
      readReg .hsVariant s.hsVariant fun v =>
      if body.length ≠ finalReplyLen v then failHandshake .malformedResponse s1
      else
        readReg .hsAuthKey s.hsAuthKey fun k =>
        readReg .hsRndA s.hsRndA fun randA =>
        let plain := cbcDec Block.zero k body
        if rotR1 (receivedRot v plain) ≠ randA.toBytes then failHandshake .authFailed s1
        else
          readReg .hsRndB s.hsRndB fun randB =>
          readReg .hsKeyNo s.hsKeyNo fun n =>
          finish [receivedCaps v plain] (s1.commitSession v (kdfEncKey k randA randB) (kdfMacKey k randA randB) n plain)

end Sys2Proof.Machine
end

