-- ==== Sys2Proof/Machine/Primitives.lean ====
section
/-! DEFINITION. The stateless operations: CBC.ENC, CBC.DEC (40_cbc_cipher.md), CMAC.GEN, MAC.TRUNC (41_cmac.md), KDF.SES and
PAD.M2 (42_session_state_ops.md). They read and write no register. -/

namespace Sys2Proof.Machine

open Sys2Proof

/-- CBC.ENC (R112). -/
def execCbcEnc (key iv data : Bytes) (s : State) : StepOutcome :=
  withKey key s fun k =>
  withBlock iv s fun v =>
  withCipherData data s fun p =>
  finish [cbcEnc v k p] s

/-- CBC.DEC (R113). -/
def execCbcDec (key iv data : Bytes) (s : State) : StepOutcome :=
  withKey key s fun k =>
  withBlock iv s fun v =>
  withCipherData data s fun c =>
  finish [cbcDec v k c] s

/-- CMAC.GEN (R136). -/
def execCmacGen (key msg : Bytes) (s : State) : StepOutcome :=
  withKey key s fun k =>
  finish [(cmac k msg).toBytes] s

/-- MAC.TRUNC (R137). -/
def execMacTrunc (tag : Bytes) (s : State) : StepOutcome :=
  withBlock tag s fun t =>
  finish [trunc t] s

/-- KDF.SES (R152). -/
def execKdfSes (authKey randA randB : Bytes) (s : State) : StepOutcome :=
  withKey authKey s fun k =>
  withBlock randA s fun a =>
  withBlock randB s fun b =>
  finish [(kdfEncKey k a b).toBytes, (kdfMacKey k a b).toBytes] s

/-- PAD.M2 (R154). -/
def execPadM2 (data : Bytes) (s : State) : StepOutcome :=
  if data.length > Config.maxPadInput then raise .operandLength s else finish [padM2 data] s

end Sys2Proof.Machine
end

