-- ==== Sys2Proof/Machine/RegisterFile.lean ====
section
/-! DEFINITION. The register-file service operations SS.CLEAR, SS.STATUS, SS.SETERR (42_session_state_ops.md R156 to R159):
legal in every state. -/

namespace Sys2Proof.Machine

open Sys2Proof

/-- SS.CLEAR (R157). -/
def execSsClear (s : State) : StepOutcome := finish [] s.clearSession

/-- SS.STATUS (R158). -/
def execSsStatus (s : State) : StepOutcome := finish [statusBytes s] s

/-- SS.SETERR (R159). -/
def execSsSeterr (code : Bytes) (s : State) : StepOutcome :=
  withPair code s fun p =>
  finish [] (s.setLastErr p)

end Sys2Proof.Machine
end

