-- ==== Sys2Proof/Machine/SecureCodec.lean ====
section
/-! DEFINITION. The secure command codec: SM.IVC, SM.IVR, SM.CMD, SM.RSP (44_secure_codec.md R202 to R217). -/

namespace Sys2Proof.Machine

open Sys2Proof

/-- SM.IVC (R203). -/
def execSmIvc (s : State) : StepOutcome :=
  gated s <|
  readReg .sesEncKey s.sesEncKey fun ek =>
  readReg .ti s.ti fun t =>
  readReg .cmdCtr s.cmdCtr fun c =>
  finish [(commandIv ek t c).toBytes] s

/-- SM.IVR (R204). -/
def execSmIvr (s : State) : StepOutcome :=
  gated s <|
  readReg .sesEncKey s.sesEncKey fun ek =>
  readReg .ti s.ti fun t =>
  readReg .cmdCtr s.cmdCtr fun c =>
  finish [(responseIv ek t c).toBytes] s

/-- `out_1` of SM.CMD: `header || encPayload || mac` (R205 to R208). -/
def commandData (ek mk : Block) (c : BitVec 16) (t : Quad) (cmdCode : Byte) (header plaintext : Bytes) : Bytes :=
  let encPayload := cbcEnc (commandIv ek t c) ek plaintext
  header ++ encPayload ++ commandMac mk cmdCode c t header encPayload

/-- SM.CMD (R205). -/
def execSmCmd (cmdCode header plaintext : Bytes) (s : State) : StepOutcome :=
  withByte cmdCode s fun cc =>
  withCipherData plaintext s fun pt =>
  if header.length + pt.length + Config.macLen > Config.maxField then raise .operandLength s
  else
    gated s <|
    readReg .sesEncKey s.sesEncKey fun ek =>
    readReg .sesMacKey s.sesMacKey fun mk =>
    readReg .cmdCtr s.cmdCtr fun c =>
    readReg .ti s.ti fun t =>
    finish [commandData ek mk c t cc header pt] s

/-- The response data in front of the MAC, `body[0 .. len - 8)` (R215). -/
def responseData (body : Bytes) : Bytes := slice body 0 (body.length - Config.macLen)

/-- The received MAC, `body[len - 8 .. len)` (R215). -/
def receivedMac (body : Bytes) : Bytes := slice body (body.length - Config.macLen) body.length

/-- A body that SM.RSP cannot process: no room for a MAC, or enciphered data that is no whole number of blocks (R215). -/
def malformedBody (m : RespMode) (body : Bytes) : Bool :=
  decide (body.length < Config.macLen) ||
    (decide (m = .enciphered) && decide ((responseData body).length % Config.blockLen ≠ 0))

/-- SM.RSP past the increment (R215 to R217): `s` holds the advanced counter `n`. -/
def verifyResponse (m : RespMode) (body : Bytes) (n : BitVec 16) (s : State) : StepOutcome :=
  if malformedBody m body then raise .malformedResponse s
  else
    readReg .sesMacKey s.sesMacKey fun mk =>
    readReg .ti s.ti fun t =>
    if responseMac mk n t (responseData body) ≠ receivedMac body then raise .responseMacFailed s
    else
      match m with
      | .plain => finish [responseData body] s
      | .enciphered =>
        readReg .sesEncKey s.sesEncKey fun ek =>
        finish [cbcDec (responseIv ek t n) ek (responseData body)] s

/-- SM.RSP (R210). -/
def execSmRsp (mode status body : Bytes) (s : State) : StepOutcome :=
  withByte mode s fun mb =>
  withPair status s fun st =>
  withMode mb s fun m =>
  gated s <|
  let s1 := s.setLastErr st
  if st ≠ Config.statusSuccess then raiseStatus st s1
  else
    readReg .cmdCtr s.cmdCtr fun c =>
    if c = Config.lastCounter then raise .counterExhausted s1.clearSession
    else verifyResponse m body (c + 1) (s1.setCmdCtr (c + 1))

end Sys2Proof.Machine
end

