-- ==== Sys2Proof/Machine/Dispatch.lean ====
section
/-! DEFINITION. The dispatch: one arm for each operation of the table (30_encoding.md R78). -/

namespace Sys2Proof.Machine

open Sys2Proof

def exec (i : Instr) (s : State) : Host.Outcome State Fault Refusal :=
  match i with
  | .cbcEnc key iv data => Sys2Proof.Machine.execCbcEnc key iv data s
  | .cbcDec key iv data => Sys2Proof.Machine.execCbcDec key iv data s
  | .cmacGen key msg => Sys2Proof.Machine.execCmacGen key msg s
  | .macTrunc tag => Sys2Proof.Machine.execMacTrunc tag s
  | .kdfSes authKey randA randB => Sys2Proof.Machine.execKdfSes authKey randA randB s
  | .padM2 data => Sys2Proof.Machine.execPadM2 data s
  | .ssClear => Sys2Proof.Machine.execSsClear s
  | .ssStatus => Sys2Proof.Machine.execSsStatus s
  | .ssSeterr code => Sys2Proof.Machine.execSsSeterr code s
  | .authStart variant keyNo authKey => Sys2Proof.Machine.execAuthStart variant keyNo authKey s
  | .authChal status body => Sys2Proof.Machine.execAuthChal status body s
  | .authFin status body => Sys2Proof.Machine.execAuthFin status body s
  | .smIvc => Sys2Proof.Machine.execSmIvc s
  | .smIvr => Sys2Proof.Machine.execSmIvr s
  | .smCmd cmdCode header plaintext => Sys2Proof.Machine.execSmCmd cmdCode header plaintext s
  | .smRsp mode status body => Sys2Proof.Machine.execSmRsp mode status body s

end Sys2Proof.Machine
end

