-- ==== Sys2Proof/Machine/Issue.lean ====
section
/-! DEFINITION. One descriptor run to its result record: decode, then the operation, or the code decoding raises
(30_encoding.md R73, 60_exceptions.md R264, R270). -/

namespace Sys2Proof.Machine

open Sys2Proof

/-- One descriptor (R62, R73): the operation it decodes to, or ILLEGAL_OP or BAD_DESCRIPTOR with no state changed. -/
def runDescriptor (d : Bytes) (s : State) : StepOutcome :=
  match decode d with
  | .instr i => exec i s
  | .illegalOp => raise .illegalOp s
  | .badDescriptor => raise .badDescriptor s

/-- One input from outside, taken off the stream (R51, R62, R301). With none, the engine waits: nothing happens between
operations (R282, R300; log 2). -/
def takeInput (s : State) : StepOutcome :=
  match s.inputs with
  | [] => .next s
  | .reset :: rest => .next (s.withInputs rest).applyReset
  | .descriptor d :: rest => runDescriptor d (s.withInputs rest)

/-- A descriptor offered as the very next input (R62). -/
def State.offer (s : State) (d : Bytes) : State := s.withInputs (.descriptor d :: s.inputs)

end Sys2Proof.Machine
end

