-- ==== Sys2Proof/Machine/Step.lean ====
section
/-! DEFINITION. One step of the engine: one operation, atomic (20_memory.md R61, R62), and where the host places an
instruction's word. -/

namespace Sys2Proof.Machine

open Sys2Proof

/-- One step: the next input is taken and acted on (R61, R62). -/
def step (s : State) : Host.Outcome State Fault Refusal := takeInput s

/-- The instruction whose first bits are `w` offered as the next descriptor, every further bit 0 (log 10). -/
def State.withFetchWord (s : State) (nbits w : Nat) : State := s.offer (tableDescriptor nbits w)

end Sys2Proof.Machine
end

