-- ==== Sys2Proof/Machine/HostSide.lean ====
section
/-! DEFINITION. The host's side as far as the spec gives it (47_host_interface.md): the outer envelope, the status pair, the
per-command table, and the two host procedures with the transport's answers as inputs. Nothing here is an operation of the
engine; the procedures run it through `step` (log 8). -/

namespace Sys2Proof.Machine

open Sys2Proof

/-- `Wrap(cmdCode, data)` for at most 255 data bytes (R230). -/
def wrap (cmdCode : Byte) (data : Bytes) : Bytes :=
  [0x90, cmdCode, 0x00, 0x00, BitVec.ofNat 8 data.length] ++ data ++ [0x00]

/-- `Wrap`, none where the data does not fit the envelope's one-byte length (R230, R232). -/
def wrap? (cmdCode : Byte) (data : Bytes) : Option Bytes :=
  if data.length ≤ 255 then some (wrap cmdCode data) else none

/-- `SplitStatus(reply)`: body and status pair; none for a reply of fewer than 2 bytes (R231). -/
def splitStatus? (reply : Bytes) : Option (Bytes × Bytes) :=
  if reply.length < 2 then none
  else some (slice reply 0 (reply.length - 2), slice reply (reply.length - 2) reply.length)

/-- What one secured command is made of: header, payload before padding (none where none is sent), response mode (R241,
R245). -/
structure SecuredCommand where
  header : Bytes
  payload : Option Bytes
  mode : RespMode
  deriving DecidableEq, Repr

/-- The shared header shape `fileNo(1) || LE24(x) || LE24(y)` (R245).

DESIGN CHOICE (log 13): LE24 is defined only below 2^24 (R12), and the spec does not say what a host does with a larger
offset, length, record number or record count. Here each is a 24-bit number, so the host can be given no larger one. -/
def fileHeader (fileNo : Byte) (x y : BitVec 24) : Bytes := [fileNo] ++ le24 x.toNat ++ le24 y.toNat

/-- Read standard file (R245). -/
def readStandardFile (fileNo : Byte) (offset length : BitVec 24) : SecuredCommand :=
  ⟨fileHeader fileNo offset length, none, .enciphered⟩

/-- Write standard file (R245). -/
def writeStandardFile (fileNo : Byte) (offset length : BitVec 24) (data : Bytes) : SecuredCommand :=
  ⟨fileHeader fileNo offset length, some data, .plain⟩

/-- Read record(s) (R245). -/
def readRecords (fileNo : Byte) (recordNo recordCount : BitVec 24) : SecuredCommand :=
  ⟨fileHeader fileNo recordNo recordCount, none, .enciphered⟩

/-- Write record (R245). -/
def writeRecord (fileNo : Byte) (offset length : BitVec 24) (data : Bytes) : SecuredCommand :=
  ⟨fileHeader fileNo offset length, some data, .plain⟩

/-- Commit transaction (R245). The response mode is not settled (R246 (d)): the host gives it (log 8). -/
def commitTransaction (option : Byte) (mode : RespMode) : SecuredCommand := ⟨[option], none, mode⟩

/-- Create transaction-MAC file (R245): the payload is `key || keyVersion` before padding (R246 (c), D44). The two access
rights bytes stand as the host gives them (R246 (b)). -/
def createTransactionMacFile (fileNo commSettings access0 access1 keyOption : Byte) (key : Block) (keyVersion : Byte) :
    SecuredCommand :=
  ⟨[fileNo, commSettings, access0, access1, keyOption], some (key.toBytes ++ [keyVersion]), .plain⟩

/-- Delete transaction-MAC file (R245). -/
def deleteTransactionMacFile (fileNo : Byte) : SecuredCommand := ⟨[fileNo], none, .plain⟩

/-- Get card UID (R245). -/
def getCardUid : SecuredCommand := ⟨[], none, .enciphered⟩

/-- The selector byte of a response mode (R211). -/
def RespMode.toByte : RespMode → Byte
  | .plain => 0x00
  | .enciphered => 0x01

/-- The selector byte of a handshake variant (R171). -/
def Variant.toByte : Variant → Byte
  | .first => 0x00
  | .nonFirst => 0x01

/-- `AUTHCMD(variant)` (R240, D45). -/
def authCmd : Variant → Byte
  | .first => Config.authCmdFirst
  | .nonFirst => Config.authCmdNonFirst

/-- What a host procedure returns (R240, R241). -/
inductive HostVerdict where
  /-- `Success(out)`. -/
  | success (outs : List Bytes)
  /-- `Failure(rc)`, with the record's output fields (the status pair for PROTOCOL_STATUS). -/
  | failure (r : Result)
  /-- `Failure(transport)`. -/
  | transport
  /-- The data does not fit one envelope (R232), or an operand does not fit one field (R72): the host goes no further. What
  it does then is the model's choice (log 8). -/
  | tooLong
  /-- An operation ended without a result record; none does (R75). -/
  | noRecord
  deriving DecidableEq, Repr

/-- A host procedure's end: what it returned, the envelopes it sent in order, and the engine's state. -/
structure HostRun where
  verdict : HostVerdict
  sent : List Bytes
  engine : State
  deriving DecidableEq, Repr

/-- The outcome of a host procedure; the engine's faults and refusals pass through. -/
abbrev HostOutcome := Host.Outcome HostRun Fault Refusal

/-- One operation issued to the engine: its descriptor is the very next input, and its result record goes to `body` with
the state after it (R62).

DESIGN CHOICE (log 8): an operand longer than 65535 bytes fits no field (R72), so no descriptor carries it; a reply can
bring one, since it is any byte string (R234). The spec does not say what the host does then. Here it issues nothing and
ends with `tooLong`: the engine stays as it is, an open handshake open, a success status not counted, LASTERR as it was. -/
def issueOp (i : Instr) (sent : List Bytes) (s : State) (body : Result → State → HostOutcome) : HostOutcome :=
  if i.WellFormed then
    match step (s.offer (encode i)) with
    | .next t =>
      match t.result with
      | some r => body r t
      | none => .next ⟨.noRecord, sent, t⟩
    | .fault f => .fault f
    | .refused r => .refused r
  else .next ⟨.tooLong, sent, s⟩

/-- One operation that must answer OK for the procedure to go on; its first output field goes to `body` (R240, R241). -/
def issueOk (i : Instr) (sent : List Bytes) (s : State) (body : Bytes → State → HostOutcome) : HostOutcome :=
  issueOp i sent s fun r t =>
    if r.rc = .ok then body (r.outs.headD []) t else .next ⟨.failure r, sent, t⟩

/-- One exchange with the card: the envelope is sent, and the reply is split; `none` as the reply is the connectivity error,
and a reply without a status pair is one too (R231, R234).

DESIGN CHOICE (log 8): data that does not fit one envelope (R232) is not sent, and the procedure ends with `tooLong`. The
spec does not say whether the host records this as a local error with SS.SETERR (R243, duty 10). Here it does not: the
engine's state, LASTERR with it, stays as the last operation left it. -/
def exchange (cmdCode : Byte) (data : Bytes) (reply : Option Bytes) (sent : List Bytes) (s : State)
    (lost : List Bytes → HostOutcome) (body : Bytes → Bytes → List Bytes → HostOutcome) : HostOutcome :=
  match wrap? cmdCode data with
  | none => .next ⟨.tooLong, sent, s⟩
  | some envelope =>
    match reply.bind splitStatus? with
    | none => lost (sent ++ [envelope])
    | some (replyBody, status) => body replyBody status (sent ++ [envelope])

/-- The end `T` of an authentication cut by the transport: `SS.CLEAR; SS.SETERR(host's transport code)` (R240). -/
def abandonHandshake (s : State) (sent : List Bytes) : HostOutcome :=
  issueOp .ssClear sent s fun _ t =>
  issueOp (.ssSeterr Config.transportErrcode.toBytes) sent t fun _ u =>
  .next ⟨.transport, sent, u⟩

/-- The end `T` of a secured command cut by the transport: `SS.SETERR(host's transport code)` (R241, R242). -/
def abandonCommand (s : State) (sent : List Bytes) : HostOutcome :=
  issueOp (.ssSeterr Config.transportErrcode.toBytes) sent s fun _ t =>
  .next ⟨.transport, sent, t⟩

/-- The authentication procedure (R240); `reply1` and `reply2` are what the two exchanges return. -/
def hostAuthenticate (v : Variant) (keyNo : Byte) (authKey : Bytes) (reply1 reply2 : Option Bytes) (s : State) :
    HostOutcome :=
  issueOk (.authStart [v.toByte] [keyNo] authKey) [] s fun param s1 =>
  exchange (authCmd v) param reply1 [] s1 (abandonHandshake s1) fun body1 st1 sent1 =>
  issueOk (.authChal st1 body1) sent1 s1 fun msg2 s2 =>
  exchange Config.authCmd2 msg2 reply2 sent1 s2 (abandonHandshake s2) fun body2 st2 sent2 =>
  issueOk (.authFin st2 body2) sent2 s2 fun caps s3 =>
  .next ⟨.success [caps], sent2, s3⟩

/-- The plaintext of a secured command: empty where it sends no payload, else padded (R241). -/
def SecuredCommand.plaintext (c : SecuredCommand) : Bytes :=
  match c.payload with
  | none => []
  | some p => padM2 p

/-- The procedure for one secured command (R241); `reply` is what the exchange returns. -/
def hostSecuredCommand (cmdCode : Byte) (c : SecuredCommand) (reply : Option Bytes) (s : State) : HostOutcome :=
  issueOk (.smCmd [cmdCode] c.header c.plaintext) [] s fun data s1 =>
  exchange cmdCode data reply [] s1 (abandonCommand s1) fun body status sent =>
  issueOk (.smRsp [c.mode.toByte] status body) sent s1 fun rdata s2 =>
  .next ⟨.success [rdata], sent, s2⟩

end Sys2Proof.Machine
end

