-- ==== Sys2Proof/Safety.lean ====
section
/-! DEFINITION. The invariants of the state and what claims call cleared, in the spec's own terms (10_state.md R26, R31,
R38, R39, R45; 42_session_state_ops.md R158; 43_authentication.md R172; 60_exceptions.md R263). -/

namespace Sys2Proof.Machine

open Sys2Proof

/-- R26: "The two flags are never both 1". -/
abbrev State.FlagsExclusive (s : State) : Prop := ¬(s.authFirst = true ∧ s.authNonFirst = true)

/-- R31: Authenticated implies that both keys, CMDCTR, TI and KEYNO are valid. -/
abbrev State.SessionLoaded (s : State) : Prop :=
  s.authenticated = true →
    s.sesEncKey.isSome = true ∧ s.sesMacKey.isSome = true ∧ s.cmdCtr.isSome = true ∧ s.ti.isSome = true ∧
      s.keyNo.isSome = true

/-- R158: "the two keys are both valid or both None". -/
abbrev State.KeysTogether (s : State) : Prop := s.sesEncKey.isSome = s.sesMacKey.isSome

/-- R172: CMDCTR and TI are valid together, "exactly when a First authentication has succeeded and its transaction has not
been thrown away since". -/
abbrev State.TransactionTogether (s : State) : Prop := s.cmdCtr.isSome = s.ti.isSome

/-- R38: which scratch registers are valid in which phase. -/
abbrev State.ScratchMatchesPhase (s : State) : Prop :=
  match s.hsPhase with
  | .idle => s.hsVariant = none ∧ s.hsKeyNo = none ∧ s.hsAuthKey = none ∧ s.hsRndA = none ∧ s.hsRndB = none
  | .waitRndB =>
    s.hsVariant.isSome = true ∧ s.hsKeyNo.isSome = true ∧ s.hsAuthKey.isSome = true ∧ s.hsRndA = none ∧ s.hsRndB = none
  | .waitFinal =>
    s.hsVariant.isSome = true ∧ s.hsKeyNo.isSome = true ∧ s.hsAuthKey.isSome = true ∧ s.hsRndA.isSome = true ∧
      s.hsRndB.isSome = true

/-- R172: a NonFirst handshake in progress holds the CMDCTR and TI of its transaction. -/
abbrev State.NonFirstHasTransaction (s : State) : Prop :=
  s.hsVariant = some .nonFirst → s.cmdCtr.isSome = true ∧ s.ti.isSome = true

/-- R173, R219 (a): a First handshake in progress has no CMDCTR and no TI, "because its AUTH.START cleared it". -/
abbrev State.FirstHasNoTransaction (s : State) : Prop :=
  s.hsVariant = some .first → s.cmdCtr = none ∧ s.ti = none

/-- R39: "HSPHASE /= IDLE implies not Authenticated". -/
abbrev State.NoSessionInHandshake (s : State) : Prop := s.hsPhase ≠ .idle → s.authenticated = false

/-- The well-formed states (R45): those that meet the invariants of R26, R31, R38 and R39, with what R158, R172 and
R219 (a) say of reachable states. -/
structure State.WellFormed (s : State) : Prop where
  flagsExclusive : s.FlagsExclusive
  sessionLoaded : s.SessionLoaded
  keysTogether : s.KeysTogether
  transactionTogether : s.TransactionTogether
  scratchMatchesPhase : s.ScratchMatchesPhase
  nonFirstHasTransaction : s.NonFirstHasTransaction
  firstHasNoTransaction : s.FirstHasNoTransaction
  noSessionInHandshake : s.NoSessionInHandshake

/-- The session registers and the scratch as the full clear action leaves them (R32, R263). -/
abbrev State.Cleared (s : State) : Prop :=
  s.sesEncKey = none ∧ s.sesMacKey = none ∧ s.cmdCtr = none ∧ s.ti = none ∧ s.keyNo = none ∧
    s.authFirst = false ∧ s.authNonFirst = false ∧
    s.hsPhase = .idle ∧ s.hsVariant = none ∧ s.hsKeyNo = none ∧ s.hsAuthKey = none ∧ s.hsRndA = none ∧ s.hsRndB = none

/-- Two states that agree in everything the host may see by SS.STATUS, in the validity of every register and in the model's
own fields, and may differ in the VALUES of the session keys, the authentication key and the nonces (R34, R40, R76). -/
structure State.SameButSecrets (s t : State) : Prop where
  sesEncKey : s.sesEncKey.isSome = t.sesEncKey.isSome
  sesMacKey : s.sesMacKey.isSome = t.sesMacKey.isSome
  hsAuthKey : s.hsAuthKey.isSome = t.hsAuthKey.isSome
  hsRndA : s.hsRndA.isSome = t.hsRndA.isSome
  hsRndB : s.hsRndB.isSome = t.hsRndB.isSome
  rest : { s with sesEncKey := t.sesEncKey, sesMacKey := t.sesMacKey, hsAuthKey := t.hsAuthKey, hsRndA := t.hsRndA,
                  hsRndB := t.hsRndB } = t

/-- The five programming-error codes `01` to `05` (R264). -/
abbrev ResultCode.ProgrammingError (c : ResultCode) : Prop :=
  c = .illegalOp ∨ c = .badDescriptor ∨ c = .keyLength ∨ c = .operandLength ∨ c = .badOperandValue

/-- The last 16 bytes of a string (R116). -/
abbrev last16 (b : Bytes) : Block := Block.ofBytes (b.drop (b.length - 16))

/-- The four data registers as a secured operation finds them when the gate is open (R202). -/
structure State.Session (s : State) (ek mk : Block) (c : BitVec 16) (t : Quad) : Prop where
  authenticated : s.authFirst = true ∨ s.authNonFirst = true
  sesEncKey : s.sesEncKey = some ek
  sesMacKey : s.sesMacKey = some mk
  cmdCtr : s.cmdCtr = some c
  ti : s.ti = some t

/-- The engine waits for the card's final reply, with these values in the scratch (R38). -/
structure State.AwaitsFinal (s : State) (v : Variant) (n : Fin 15) (k randA randB : Block) : Prop where
  hsPhase : s.hsPhase = .waitFinal
  hsVariant : s.hsVariant = some v
  hsKeyNo : s.hsKeyNo = some n
  hsAuthKey : s.hsAuthKey = some k
  hsRndA : s.hsRndA = some randA
  hsRndB : s.hsRndB = some randB

end Sys2Proof.Machine
end

