-- ==== Sys2Proof/Certificates/Slice0/Obligations.lean ====
section
/-! DEFINITION. What is stated of the model, for the provers. A next state is written out as the state before with the
fields that change, so each such equation is also the frame: every field it does not name is unchanged. The engine has no
memory (R50), so no statement speaks of one. -/

open Sys2Proof Sys2Proof.Machine

/-! ## The descriptor -/

/-- Decoding the descriptor of an instruction gives the instruction back (R70, R72, R73). Not of the source: the
descriptor format is the spec's own (D2, D3). -/
def Obligations.DecodeInvertsEncode : Prop :=
  ∀ i : Instr, i.WellFormed → decode (encode i) = .instr i

/-- What decodes is the descriptor of what it decodes to, of the length R74 gives. Not of the source: the descriptor
format is the spec's own (D2). -/
def Obligations.EncodeInvertsDecode : Prop :=
  ∀ (d : Bytes) (i : Instr), decode d = .instr i →
    encode i = d ∧ i.WellFormed ∧ d.length = 1 + (i.operands.map fun a => 2 + a.length).sum

/-- The illegal codes of R80, and only they, raise ILLEGAL_OP, whatever follows, and nothing but the record changes.
Not of the source: the illegal codes are the spec's own (D38). -/
def Obligations.IllegalCodesRefused : Prop :=
  ∀ (code : Byte) (rest : Bytes) (s : State),
    let illegal := code = 0x00 ∨ (0x07 ≤ code ∧ code ≤ 0x0F) ∨ (0x13 ≤ code ∧ code ≤ 0x1F) ∨
      (0x23 ≤ code ∧ code ≤ 0x2F) ∨ 0x34 ≤ code
    (illegal ↔ decode (code :: rest) = .illegalOp) ∧
    (illegal → step (s.offer (code :: rest)) = .next { s with result := some ⟨.illegalOp, []⟩ })

/-- The empty descriptor, a descriptor cut short and a descriptor with trailing bytes raise BAD_DESCRIPTOR, and
nothing but the record changes (R73, R264). Not of the source: the spec's own (D2, D20). -/
def Obligations.MalformedDescriptorsRefused : Prop :=
  ∀ (i : Instr) (s : State), i.WellFormed →
    step (s.offer []) = .next { s with result := some ⟨.badDescriptor, []⟩ } ∧
    (∀ (b : Byte) (rest : Bytes),
      step (s.offer (encode i ++ b :: rest)) = .next { s with result := some ⟨.badDescriptor, []⟩ }) ∧
    (∀ n : Nat, 0 < n → n < (encode i).length →
      step (s.offer ((encode i).take n)) = .next { s with result := some ⟨.badDescriptor, []⟩ })

/-- A few descriptors written out from R70, R72 and R78 decode to the operations they stand for. Not of the source:
the descriptor format is the spec's own (D2, D3). -/
def Obligations.WordsDecode : Prop :=
  decode [0x04, 0x02, 0x00, 0xAA, 0xBB] = .instr (.macTrunc [0xAA, 0xBB]) ∧
  decode [0x11] = .instr .ssStatus ∧
  decode [0x12, 0x02, 0x00, 0x6F, 0x00] = .instr (.ssSeterr [0x6F, 0x00]) ∧
  decode [0x22, 0x02, 0x00, 0x91, 0xAF, 0x00, 0x00] = .instr (.authFin [0x91, 0xAF] []) ∧
  decode [0x33, 0x01, 0x00, 0x01, 0x02, 0x00, 0x91, 0x00, 0x01, 0x00, 0x7E] = .instr (.smRsp [0x01] [0x91, 0x00] [0x7E])

/-- A step whose input is a descriptor that decodes runs exactly that operation, on the state with that input taken
off. Not of the source: the input stream is the model's (log 1), one descriptor to one result the spec's own (D34). -/
def Obligations.StepRunsDecodedOperation : Prop :=
  (∀ (s : State) (d : Bytes) (rest : List HostInput) (i : Instr),
    s.inputs = .descriptor d :: rest → decode d = .instr i → step s = exec i { s with inputs := rest }) ∧
  (∀ (s : State) (i : Instr), i.WellFormed → step (s.offer (encode i)) = exec i s)

/-- With no input the engine waits. The model's choice (log 2), from R282 and R300. -/
def Obligations.StepWithoutInputWaits : Prop :=
  ∀ s : State, s.inputs = [] → step s = .next s

/-- A reset between two operations leaves every register at the value of R300. What stays of the model's own fields is
the model's choice (log 3). Not of the source: LASTERR's value is the spec's own (D7). -/
def Obligations.ResetInputClearsEveryRegister : Prop :=
  ∀ (s : State) (rest : List HostInput), s.inputs = .reset :: rest →
    step s = .next
      { sesEncKey := none, sesMacKey := none, cmdCtr := none, ti := none, authFirst := false, authNonFirst := false,
        keyNo := none, lastErr := none, hsPhase := .idle, hsVariant := none, hsKeyNo := none, hsAuthKey := none,
        hsRndA := none, hsRndB := none, inputs := rest, result := none, draws := s.draws, drawCount := s.drawCount }

/-- The reset state: every register as R300 states it, and SS.STATUS then returns 11 zero bytes. Not of the source:
LASTERR's value is the spec's own (D7). -/
def Obligations.ResetRegisterValues : Prop :=
  State.reset.sesEncKey = none ∧ State.reset.sesMacKey = none ∧ State.reset.cmdCtr = none ∧ State.reset.ti = none ∧
  State.reset.authFirst = false ∧ State.reset.authNonFirst = false ∧ State.reset.keyNo = none ∧
  State.reset.lastErr = none ∧ State.reset.hsPhase = .idle ∧ State.reset.hsVariant = none ∧
  State.reset.hsKeyNo = none ∧ State.reset.hsAuthKey = none ∧ State.reset.hsRndA = none ∧ State.reset.hsRndB = none ∧
  exec .ssStatus State.reset = .next { State.reset with result := some ⟨.ok, [List.replicate 11 0]⟩ }

/-! ## The cipher and CMAC units -/

/-- R108: the two block functions are inverse to each other under every key. Not of the source: the spec takes the
block functions from general knowledge (G1, log 9). -/
def Obligations.AesBlockFunctionsInverse : Prop :=
  ∀ k x : Block, aesDec k (aesEnc k x) = x ∧ aesEnc k (aesDec k x) = x

/-- R103, R104: the boxes are what their formula says and inverse to each other. Not of the source: from general
knowledge by the spec's own account (G1, log 9). -/
def Obligations.SubstitutionBoxes : Prop :=
  ∀ a : Byte, invSbox (sbox a) = a ∧ sbox (invSbox a) = a ∧
    ∃ b : Byte, (if a = 0 then b = 0 else gmul a b = 0x01) ∧
      sbox a = b ^^^ b.rotateLeft 1 ^^^ b.rotateLeft 2 ^^^ b.rotateLeft 3 ^^^ b.rotateLeft 4 ^^^ 0x63#8

/-- R110, R111: block by block, each chained on the IV or on the ciphertext block before it. Not of the source: one
block's CBC form is from general knowledge by the spec's own account (G2, log 9). -/
def Obligations.CbcChainsOnCiphertext : Prop :=
  (∀ (iv k : Block) (ps : List Block), ∃ cs : List Block,
    cbcEnc iv k (blocksToBytes ps) = blocksToBytes cs ∧ cs.length = ps.length ∧
    ∀ i < ps.length, cs.getD i Block.zero =
      aesEnc k ((ps.getD i Block.zero).xor (if i = 0 then iv else cs.getD (i - 1) Block.zero))) ∧
  (∀ (iv k : Block) (cs : List Block), ∃ ps : List Block,
    cbcDec iv k (blocksToBytes cs) = blocksToBytes ps ∧ ps.length = cs.length ∧
    ∀ i < cs.length, ps.getD i Block.zero =
      (aesDec k (cs.getD i Block.zero)).xor (if i = 0 then iv else cs.getD (i - 1) Block.zero))

/-- R116: a long message may be enciphered and deciphered in parts. Not of the source: the spec's own inference from
R110 and R111. -/
def Obligations.CbcChainsByParts : Prop :=
  ∀ (iv k : Block) (b1 b2 : Bytes), b1.length % 16 = 0 → b2.length % 16 = 0 → 16 ≤ b1.length →
    cbcEnc iv k (b1 ++ b2) = cbcEnc iv k b1 ++ cbcEnc (last16 (cbcEnc iv k b1)) k b2 ∧
    cbcDec iv k (b1 ++ b2) = cbcDec iv k b1 ++ cbcDec (last16 b1) k b2

/-- R114: CBC.DEC gives back what CBC.ENC was given, and the other way round, in any state. Not of the source: the
second direction is the spec's own inference from R108, R110, R111. -/
def Obligations.CbcOperationsRoundTrip : Prop :=
  ∀ key iv data : Bytes, key.length = 16 → iv.length = 16 → data.length % 16 = 0 →
    ∃ ct pt : Bytes, ct.length = data.length ∧ pt.length = data.length ∧ ∀ s : State,
      exec (.cbcEnc key iv data) s = .next { s with result := some ⟨.ok, [ct]⟩ } ∧
      exec (.cbcDec key iv ct) s = .next { s with result := some ⟨.ok, [data]⟩ } ∧
      exec (.cbcDec key iv data) s = .next { s with result := some ⟨.ok, [pt]⟩ } ∧
      exec (.cbcEnc key iv pt) s = .next { s with result := some ⟨.ok, [data]⟩ }

/-- CBC.ENC and CBC.DEC complete on operands of the right lengths, with the CBC functions' results (R112, R113). Not
of the source: no data at all being legal is the spec's own (D19). -/
def Obligations.CbcOperationsComplete : Prop :=
  ∀ (key iv data : Bytes) (s : State), key.length = 16 → iv.length = 16 → data.length % 16 = 0 →
    exec (.cbcEnc key iv data) s =
      .next { s with result := some ⟨.ok, [cbcEnc (Block.ofBytes iv) (Block.ofBytes key) data]⟩ } ∧
    exec (.cbcDec key iv data) s =
      .next { s with result := some ⟨.ok, [cbcDec (Block.ofBytes iv) (Block.ofBytes key) data]⟩ }

/-- R131: doubling, on the 128-bit number whose first byte is the most significant; the number of a string is its
bytes in base 256. Not of the source: from general knowledge by the spec's own account (G3, log 9). -/
def Obligations.DoublingRule : Prop :=
  ∀ x : Block, Block.toNumber (dbl x) =
      (if (Block.toNumber x).getLsbD 127 then (Block.toNumber x <<< 1) ^^^ 0x87#128 else Block.toNumber x <<< 1) ∧
    (Block.toNumber x).toNat = x.toBytes.foldl (fun acc b => 256 * acc + b.toNat) 0

/-- R132 to R134: a message of whole blocks, at least one, has the last CBC block under the zero IV of the message
with its last block exclusive-ored with K1; any other message that of the message filled with 80 00 ... 00 and its
last block exclusive-ored with K2. Not of the source: from general knowledge by the spec's own account (G3, log 9). -/
def Obligations.CmacIsLastCbcBlock : Prop :=
  ∀ (k : Block) (front : List Block),
    let k1 := dbl (aesEnc k Block.zero)
    let k2 := dbl k1
    (∀ last : Block,
      some (cmac k (blocksToBytes (front ++ [last]))) =
        (cbcEncBlocks k Block.zero (front ++ [last.xor k1])).getLast?) ∧
    (∀ left : Bytes, left.length < 16 → (left = [] → front = []) →
      some (cmac k (blocksToBytes front ++ left)) =
        (cbcEncBlocks k Block.zero
          (front ++ [(Block.ofBytes (left ++ [0x80] ++ List.replicate (15 - left.length) 0)).xor k2])).getLast?)

/-- CMAC.GEN completes on every message with the full tag (R136). Not of the source: what a CMAC is, is from general
knowledge (G3, log 9). -/
def Obligations.CmacGenCompletes : Prop :=
  ∀ (key msg : Bytes) (s : State), key.length = 16 →
    exec (.cmacGen key msg) s = .next { s with result := some ⟨.ok, [(cmac (Block.ofBytes key) msg).toBytes]⟩ }

/-- R135: MAC.TRUNC returns the 8 bytes at the odd indices, in order. -/
def Obligations.MacTruncTakesOddBytes : Prop :=
  ∀ (tag : Bytes) (s : State), tag.length = 16 → ∃ mac : Bytes,
    exec (.macTrunc tag) s = .next { s with result := some ⟨.ok, [mac]⟩ } ∧
    mac.length = 8 ∧ ∀ i < 8, mac.getD i 0 = tag.getD (2 * i + 1) 0

/-- R150, R151: KDF.SES returns the two CMACs over the 32-byte derivation inputs. -/
def Obligations.KdfSesCompletes : Prop :=
  ∀ (authKey randA randB : Bytes) (s : State), authKey.length = 16 → randA.length = 16 → randB.length = 16 →
    let input (label : Bytes) : Bytes :=
      label ++ [0x00, 0x01, 0x00, 0x80] ++ randA.take 2
        ++ List.zipWith (fun a b => a ^^^ b) ((randA.drop 2).take 6) (randB.take 6)
        ++ randB.drop 6 ++ randA.drop 8
    (∀ l0 l1 : Byte, (input [l0, l1]).length = 32) ∧
    exec (.kdfSes authKey randA randB) s =
      .next { s with result := some ⟨.ok, [(cmac (Block.ofBytes authKey) (input [0xA5, 0x5A])).toBytes,
        (cmac (Block.ofBytes authKey) (input [0x5A, 0xA5])).toBytes]⟩ }

/-- R153, R154: PAD.M2 appends 80 and zero bytes to the next multiple of 16, and refuses what would not fit a field.
Not of the source: the size limit is the spec's own (D5). -/
def Obligations.PadM2Completes : Prop :=
  ∀ (data : Bytes) (s : State),
    let padded : Bytes := data ++ 0x80 :: List.replicate (15 - data.length % 16) 0
    padM2 data = padded ∧ padded.length = 16 * (data.length / 16 + 1) ∧
    (data.length ≤ 65519 → exec (.padM2 data) s = .next { s with result := some ⟨.ok, [padded]⟩ }) ∧
    (65519 < data.length → exec (.padM2 data) s = .next { s with result := some ⟨.operandLength, []⟩ })

/-- The stateless operations' length tests, in field order (R79, R112, R113, R136, R137, R152, R264). Not of the
source: which code is raised first is the spec's own (D18, D30). -/
def Obligations.PrimitivesRefuseWrongLengths : Prop :=
  ∀ (a b c : Bytes) (s : State),
    let keyLength : StepOutcome := .next { s with result := some ⟨.keyLength, []⟩ }
    let operandLength : StepOutcome := .next { s with result := some ⟨.operandLength, []⟩ }
    (a.length ≠ 16 → exec (.cbcEnc a b c) s = keyLength ∧ exec (.cbcDec a b c) s = keyLength ∧
      exec (.cmacGen a b) s = keyLength ∧ exec (.kdfSes a b c) s = keyLength ∧ exec (.macTrunc a) s = operandLength) ∧
    (a.length = 16 → b.length ≠ 16 → exec (.cbcEnc a b c) s = operandLength ∧ exec (.cbcDec a b c) s = operandLength ∧
      exec (.kdfSes a b c) s = operandLength) ∧
    (a.length = 16 → b.length = 16 → c.length % 16 ≠ 0 →
      exec (.cbcEnc a b c) s = operandLength ∧ exec (.cbcDec a b c) s = operandLength) ∧
    (a.length = 16 → b.length = 16 → c.length ≠ 16 → exec (.kdfSes a b c) s = operandLength)

/-! ## The register-file service operations -/

/-- R157 with R32: SS.CLEAR empties everything but LASTERR, in every state. -/
def Obligations.SsClearCompletes : Prop :=
  ∀ s : State, exec .ssClear s = .next
    { s with
      sesEncKey := none, sesMacKey := none, cmdCtr := none, ti := none, keyNo := none, authFirst := false,
      authNonFirst := false, hsPhase := .idle, hsVariant := none, hsKeyNo := none, hsAuthKey := none, hsRndA := none,
      hsRndB := none, result := some ⟨.ok, []⟩ }

/-- R158: the eleven status bytes, in every state; nothing else changes. Not of the source: the layout is the spec's
own (D35). -/
def Obligations.SsStatusLayout : Prop :=
  ∀ s : State, ∃ flags phase keyNo c0 c1 t0 t1 t2 t3 e0 e1 : Byte,
    exec .ssStatus s =
      .next { s with result := some ⟨.ok, [[flags, phase, keyNo, c0, c1, t0, t1, t2, t3, e0, e1]]⟩ } ∧
    flags.getLsbD 0 = s.authFirst ∧ flags.getLsbD 1 = s.authNonFirst ∧
    flags.getLsbD 2 = (s.sesEncKey.isSome && s.sesMacKey.isSome) ∧ flags.getLsbD 3 = s.cmdCtr.isSome ∧
    flags.getLsbD 4 = s.ti.isSome ∧ flags.getLsbD 5 = s.keyNo.isSome ∧ flags.getLsbD 6 = s.lastErr.isSome ∧
    flags.getLsbD 7 = false ∧
    (s.hsPhase = .idle → phase = 0x00) ∧ (s.hsPhase = .waitRndB → phase = 0x01) ∧
    (s.hsPhase = .waitFinal → phase = 0x02) ∧
    (∀ n, s.keyNo = some n → keyNo.toNat = n.val) ∧ (s.keyNo = none → keyNo = 0) ∧
    (∀ c, s.cmdCtr = some c → c0.toNat + 256 * c1.toNat = c.toNat) ∧ (s.cmdCtr = none → c0 = 0 ∧ c1 = 0) ∧
    (∀ t, s.ti = some t → t = ⟨t0, t1, t2, t3⟩) ∧ (s.ti = none → t0 = 0 ∧ t1 = 0 ∧ t2 = 0 ∧ t3 = 0) ∧
    (∀ e, s.lastErr = some e → e = ⟨e0, e1⟩) ∧ (s.lastErr = none → e0 = 0 ∧ e1 = 0)

/-- R159: SS.SETERR writes LASTERR and nothing else, and refuses a code that is not 2 bytes. -/
def Obligations.SsSeterrCompletes : Prop :=
  ∀ (code : Bytes) (s : State),
    (∀ e0 e1 : Byte, code = [e0, e1] →
      exec (.ssSeterr code) s = .next { s with lastErr := some ⟨e0, e1⟩, result := some ⟨.ok, []⟩ }) ∧
    (code.length ≠ 2 → exec (.ssSeterr code) s = .next { s with result := some ⟨.operandLength, []⟩ })

/-! ## The handshake -/

/-- AUTH.START First (R171, R173, R174): everything is cleared, the handshake is open, `param = keyNo || 00`. Not of
the source: legality in every phase and KEYNO among the cleared are the spec's own (D10, D13). -/
def Obligations.AuthStartFirstCompletes : Prop :=
  ∀ (keyNo : Byte) (n : Fin 15) (authKey : Bytes) (s : State), keyNo.toNat = n.val → authKey.length = 16 →
    exec (.authStart [0x00] [keyNo] authKey) s = .next
      { s with
        sesEncKey := none, sesMacKey := none, cmdCtr := none, ti := none, keyNo := none, authFirst := false,
        authNonFirst := false, hsPhase := .waitRndB, hsVariant := some .first, hsKeyNo := some n,
        hsAuthKey := some (Block.ofBytes authKey), hsRndA := none, hsRndB := none,
        result := some ⟨.ok, [[keyNo, 0x00]]⟩ }

/-- AUTH.START NonFirst (R171 to R174): with CMDCTR and TI valid it keeps both, clears the keys, the flags and the key
number, and `param = keyNo`; with one of them empty it is refused. Not of the source: the test and what is cleared are
the spec's own (D10, D11); PRECOND_ERRCODE is open (log 6). -/
def Obligations.AuthStartNonFirstCompletes : Prop :=
  ∀ (keyNo : Byte) (n : Fin 15) (authKey : Bytes) (s : State), keyNo.toNat = n.val → authKey.length = 16 →
    (s.cmdCtr.isSome = true → s.ti.isSome = true →
      exec (.authStart [0x01] [keyNo] authKey) s = .next
        { s with
          sesEncKey := none, sesMacKey := none, keyNo := none, authFirst := false, authNonFirst := false,
          hsPhase := .waitRndB, hsVariant := some .nonFirst, hsKeyNo := some n,
          hsAuthKey := some (Block.ofBytes authKey), hsRndA := none, hsRndB := none,
          result := some ⟨.ok, [[keyNo]]⟩ }) ∧
    (s.cmdCtr = none ∨ s.ti = none →
      exec (.authStart [0x01] [keyNo] authKey) s = .next
        { s with lastErr := some Config.precondErrcode, result := some ⟨.precondition, []⟩ })

/-- AUTH.START's operand tests and their order (R171, R270): lengths in field order, then values, before any register.
Not of the source: the codes and their order are the spec's own (D17, D30). -/
def Obligations.AuthStartRefusesBadOperands : Prop :=
  ∀ (variant keyNo authKey : Bytes) (s : State),
    (variant.length ≠ 1 ∨ keyNo.length ≠ 1 →
      exec (.authStart variant keyNo authKey) s = .next { s with result := some ⟨.operandLength, []⟩ }) ∧
    (variant.length = 1 → keyNo.length = 1 → authKey.length ≠ 16 →
      exec (.authStart variant keyNo authKey) s = .next { s with result := some ⟨.keyLength, []⟩ }) ∧
    (∀ v n : Byte, variant = [v] → keyNo = [n] → authKey.length = 16 → (0x01 < v ∨ 0x0E < n) →
      exec (.authStart variant keyNo authKey) s = .next { s with result := some ⟨.badOperandValue, []⟩ })

/-- AUTH.CHAL in its turn, on the pair `91 AF` and a 16-byte body (R175, R178, R179): `randB` is the deciphered body,
`randA` the draw, and the second message the chained encryption of `randA` and the rotated `randB`. Not of the source:
the draw as an input is the spec's own (D15), its place in the state the model's (log 5). -/
def Obligations.AuthChalCompletes : Prop :=
  ∀ (body : Bytes) (k : Block) (s : State),
    s.hsPhase = .waitRndB → s.hsAuthKey = some k → body.length = 16 →
    let randA := s.nextDraw
    let randB := aesDec k (Block.ofBytes body)
    let first := aesEnc k randA
    let second := aesEnc k ((Block.ofBytes (rotL1 randB.toBytes)).xor first)
    (∀ d ds, s.draws = d :: ds → randA = d) ∧
    exec (.authChal [0x91, 0xAF] body) s = .next
      { s with
        lastErr := some ⟨0x91, 0xAF⟩, hsPhase := .waitFinal, hsRndA := some randA, hsRndB := some randB,
        draws := s.draws.tail, drawCount := s.drawCount + 1, result := some ⟨.ok, [first.toBytes ++ second.toBytes]⟩ }

/-- AUTH.CHAL refused: a status operand that is no pair; out of turn; a pair other than `91 AF`; a body that is not 16
bytes (R175 to R177). Not of the source: the spec's own (D9, D14); PRECOND_ERRCODE is open (log 6). -/
def Obligations.AuthChalFailures : Prop :=
  ∀ (status body : Bytes) (s : State),
    (status.length ≠ 2 → exec (.authChal status body) s = .next { s with result := some ⟨.operandLength, []⟩ }) ∧
    ∀ e0 e1 : Byte, status = [e0, e1] →
      (s.hsPhase ≠ .waitRndB → exec (.authChal status body) s = .next
        { s with lastErr := some Config.precondErrcode, result := some ⟨.precondition, []⟩ }) ∧
      (s.hsPhase = .waitRndB → ¬(e0 = 0x91 ∧ e1 = 0xAF) → exec (.authChal status body) s = .next
        { s.clearSession with lastErr := some ⟨e0, e1⟩, result := some ⟨.protocolStatus, [[e0, e1]]⟩ }) ∧
      (s.hsPhase = .waitRndB → e0 = 0x91 → e1 = 0xAF → body.length ≠ 16 → exec (.authChal status body) s = .next
        { s.clearSession with lastErr := some ⟨0x91, 0xAF⟩, result := some ⟨.malformedResponse, []⟩ })

/-- AUTH.FIN of a First handshake whose returned `randA` matches (R180, R183 to R185): the session is loaded with
counter 0 and the card's TI, the scratch is cleared, the capability bytes are returned. Not of the source: which flag,
the capability bytes and the cleared scratch are the spec's own (D12, D16, D39). -/
def Obligations.AuthFinFirstCommits : Prop :=
  ∀ (body plain : Bytes) (n : Fin 15) (k randA randB : Block) (s : State),
    s.AwaitsFinal .first n k randA randB → body.length = 32 → plain = cbcDec Block.zero k body →
    rotR1 ((plain.drop 4).take 16) = randA.toBytes →
    exec (.authFin [0x91, 0x00] body) s = .next
      { s with
        lastErr := some ⟨0x91, 0x00⟩,
        sesEncKey := some (kdfEncKey k randA randB), sesMacKey := some (kdfMacKey k randA randB), keyNo := some n,
        cmdCtr := some 0, ti := some ⟨plain.getD 0 0, plain.getD 1 0, plain.getD 2 0, plain.getD 3 0⟩,
        authFirst := true, authNonFirst := false,
        hsPhase := .idle, hsVariant := none, hsKeyNo := none, hsAuthKey := none, hsRndA := none, hsRndB := none,
        result := some ⟨.ok, [plain.drop 20]⟩ }

/-- AUTH.FIN of a NonFirst handshake whose returned `randA` matches (R180, R183 to R186): new keys and key number,
CMDCTR and TI as they were. Not of the source: which flag and the cleared scratch are the spec's own (D12, D39). -/
def Obligations.AuthFinNonFirstCommits : Prop :=
  ∀ (body : Bytes) (n : Fin 15) (k randA randB : Block) (s : State),
    s.AwaitsFinal .nonFirst n k randA randB → body.length = 16 →
    rotR1 (cbcDec Block.zero k body) = randA.toBytes →
    exec (.authFin [0x91, 0x00] body) s = .next
      { s with
        lastErr := some ⟨0x91, 0x00⟩,
        sesEncKey := some (kdfEncKey k randA randB), sesMacKey := some (kdfMacKey k randA randB), keyNo := some n,
        authFirst := false, authNonFirst := true,
        hsPhase := .idle, hsVariant := none, hsKeyNo := none, hsAuthKey := none, hsRndA := none, hsRndB := none,
        result := some ⟨.ok, [[]]⟩ }

/-- AUTH.FIN refused: a status operand that is no pair; out of turn; a pair other than `91 00`; a body of the wrong
length for the variant; a returned `randA` that does not match (R180 to R182, R184). Not of the source: the spec's own
(D9, D14); PRECOND_ERRCODE is open (log 6). -/
def Obligations.AuthFinFailures : Prop :=
  ∀ (status body : Bytes) (s : State),
    (status.length ≠ 2 → exec (.authFin status body) s = .next { s with result := some ⟨.operandLength, []⟩ }) ∧
    ∀ e0 e1 : Byte, status = [e0, e1] →
      (s.hsPhase ≠ .waitFinal → exec (.authFin status body) s = .next
        { s with lastErr := some Config.precondErrcode, result := some ⟨.precondition, []⟩ }) ∧
      (s.hsPhase = .waitFinal → ¬(e0 = 0x91 ∧ e1 = 0x00) → exec (.authFin status body) s = .next
        { s.clearSession with lastErr := some ⟨e0, e1⟩, result := some ⟨.protocolStatus, [[e0, e1]]⟩ }) ∧
      ∀ (v : Variant) (n : Fin 15) (k randA randB : Block),
        s.AwaitsFinal v n k randA randB → e0 = 0x91 → e1 = 0x00 →
        (body.length ≠ (if v = .first then 32 else 16) → exec (.authFin status body) s = .next
          { s.clearSession with lastErr := some ⟨0x91, 0x00⟩, result := some ⟨.malformedResponse, []⟩ }) ∧
        (body.length = (if v = .first then 32 else 16) →
          rotR1 ((((cbcDec Block.zero k body).drop (if v = .first then 4 else 0))).take 16) ≠ randA.toBytes →
          exec (.authFin status body) s = .next
            { s.clearSession with lastErr := some ⟨0x91, 0x00⟩, result := some ⟨.authFailed, []⟩ })

/-- R188: a handshake step that passes its phase check and does not end in OK leaves everything cleared. Not of the
source: the spec's own inference from R175 and R180. -/
def Obligations.HandshakeFailureClears : Prop :=
  ∀ (status body : Bytes) (s t : State) (r : Result), status.length = 2 → t.result = some r → r.rc ≠ .ok →
    ((s.hsPhase = .waitRndB ∧ exec (.authChal status body) s = .next t) ∨
      (s.hsPhase = .waitFinal ∧ exec (.authFin status body) s = .next t)) →
    t.Cleared ∧ t.lastErr.map StatusPair.toBytes = some status

/-- A First authentication with a card that holds the same key and follows the protocol loads the session: from any
state, with the keys of R151 on the draw and the card's nonce, counter 0, the card's TI, and the card's capability
bytes returned; the second message deciphers to `randA` and the rotated `randB` (R170 to R185). Not of the source: the
card's side as the spec describes it; the rotation's sense is unverified (G4, log 9). -/
def Obligations.HonestFirstHandshake : Prop :=
  ∀ (keyNo : Byte) (n : Fin 15) (k randB : Block) (ti : Quad) (caps : Bytes) (s : State),
    keyNo.toNat = n.val → caps.length = 12 →
    let randA := s.nextDraw
    let reply1 := cbcEnc Block.zero k randB.toBytes
    let reply2 := cbcEnc Block.zero k (ti.toBytes ++ rotL1 randA.toBytes ++ caps)
    ∃ (msg2 : Bytes) (s1 s2 s3 : State),
      exec (.authStart [0x00] [keyNo] k.toBytes) s = .next s1 ∧
      exec (.authChal [0x91, 0xAF] reply1) s1 = .next s2 ∧ s2.result = some ⟨.ok, [msg2]⟩ ∧
      cbcDec Block.zero k msg2 = randA.toBytes ++ rotL1 randB.toBytes ∧
      exec (.authFin [0x91, 0x00] reply2) s2 = .next s3 ∧ s3.result = some ⟨.ok, [caps]⟩ ∧
      s3.sesEncKey = some (kdfEncKey k randA randB) ∧ s3.sesMacKey = some (kdfMacKey k randA randB) ∧
      s3.cmdCtr = some 0 ∧ s3.ti = some ti ∧ s3.keyNo = some n ∧ s3.authFirst = true ∧ s3.authNonFirst = false ∧
      s3.hsPhase = .idle ∧ s3.lastErr = some ⟨0x91, 0x00⟩

/-- A NonFirst authentication with such a card keeps the counter and the transaction identifier and replaces the keys
(R186). Not of the source: the spec's own inference (R186); the rotation's sense is unverified (G4, log 9). -/
def Obligations.HonestNonFirstHandshake : Prop :=
  ∀ (keyNo : Byte) (n : Fin 15) (k randB : Block) (c : BitVec 16) (ti : Quad) (s : State),
    keyNo.toNat = n.val → s.cmdCtr = some c → s.ti = some ti →
    let randA := s.nextDraw
    ∃ s1 s2 s3 : State,
      exec (.authStart [0x01] [keyNo] k.toBytes) s = .next s1 ∧
      exec (.authChal [0x91, 0xAF] (cbcEnc Block.zero k randB.toBytes)) s1 = .next s2 ∧
      exec (.authFin [0x91, 0x00] (cbcEnc Block.zero k (rotL1 randA.toBytes))) s2 = .next s3 ∧
      s3.result = some ⟨.ok, [[]]⟩ ∧
      s3.sesEncKey = some (kdfEncKey k randA randB) ∧ s3.sesMacKey = some (kdfMacKey k randA randB) ∧
      s3.cmdCtr = some c ∧ s3.ti = some ti ∧ s3.keyNo = some n ∧ s3.authFirst = false ∧ s3.authNonFirst = true

/-! ## The secure codec -/

/-- R202: while not Authenticated the four secured operations, on operands of the right lengths and values, write
LASTERR and raise PRECONDITION, and do nothing else. Not of the source: no exemption is the spec's own (D29);
PRECOND_ERRCODE is open (D21, log 6). -/
def Obligations.SecuredGateClosed : Prop :=
  ∀ (cmdCode mode e0 e1 : Byte) (header plaintext body : Bytes) (s : State),
    s.authFirst = false → s.authNonFirst = false → plaintext.length % 16 = 0 →
    header.length + plaintext.length + 8 ≤ 65535 → mode ≤ 0x01 →
    let refused : StepOutcome :=
      .next { s with lastErr := some Config.precondErrcode, result := some ⟨.precondition, []⟩ }
    exec .smIvc s = refused ∧ exec .smIvr s = refused ∧ exec (.smCmd [cmdCode] header plaintext) s = refused ∧
      exec (.smRsp [mode] [e0, e1] body) s = refused

/-- R200, R203 and R201, R204: SM.IVC and SM.IVR return the two derived IVs, label first, counter low byte first, and
change nothing. -/
def Obligations.DerivedIvsReturned : Prop :=
  ∀ (ek mk : Block) (c : BitVec 16) (t : Quad) (s : State), s.Session ek mk c t →
    let input (l0 l1 : Byte) : Block :=
      ⟨⟨l0, l1, t.b0, t.b1⟩, ⟨t.b2, t.b3, c.extractLsb' 0 8, c.extractLsb' 8 8⟩, ⟨0, 0, 0, 0⟩, ⟨0, 0, 0, 0⟩⟩
    exec .smIvc s = .next { s with result := some ⟨.ok, [(aesEnc ek (input 0xA5 0x5A)).toBytes]⟩ } ∧
    exec .smIvr s = .next { s with result := some ⟨.ok, [(aesEnc ek (input 0x5A 0xA5)).toBytes]⟩ }

/-- R205 to R208: SM.CMD returns header, enciphered payload and truncated MAC, and changes no register. -/
def Obligations.SmCmdCompletes : Prop :=
  ∀ (cmdCode : Byte) (header plaintext : Bytes) (ek mk : Block) (c : BitVec 16) (t : Quad) (s : State),
    s.Session ek mk c t → plaintext.length % 16 = 0 → header.length + plaintext.length + 8 ≤ 65535 →
    let counter : Bytes := [c.extractLsb' 0 8, c.extractLsb' 8 8]
    let payload := cbcEnc (commandIv ek t c) ek plaintext
    let mac := trunc (cmac mk (cmdCode :: counter ++ t.toBytes ++ header ++ payload))
    payload.length = plaintext.length ∧ mac.length = 8 ∧
    exec (.smCmd [cmdCode] header plaintext) s = .next { s with result := some ⟨.ok, [header ++ payload ++ mac]⟩ }

/-- SM.CMD's and SM.RSP's operand tests, whatever the state (R205, R210, R264). Not of the source: the codes are the
spec's own (D5, D17, D18). -/
def Obligations.CodecRefusesBadOperands : Prop :=
  ∀ (a b c : Bytes) (s : State),
    let operandLength : StepOutcome := .next { s with result := some ⟨.operandLength, []⟩ }
    (a.length ≠ 1 ∨ c.length % 16 ≠ 0 ∨ 65535 < b.length + c.length + 8 → exec (.smCmd a b c) s = operandLength) ∧
    (a.length ≠ 1 ∨ b.length ≠ 2 → exec (.smRsp a b c) s = operandLength) ∧
    (∀ m : Byte, a = [m] → b.length = 2 → 0x01 < m →
      exec (.smRsp a b c) s = .next { s with result := some ⟨.badOperandValue, []⟩ })

/-- SM.RSP on a success status and a good MAC (R210, R214 to R217): the counter is one more, and the response data is
returned, as received in mode 00 and deciphered under the response IV of the new counter in mode 01. Not of the
source: that the counter moves before the checks is the spec's own resolution (C1, D25, D27). -/
def Obligations.SmRspAccepts : Prop :=
  ∀ (rdata : Bytes) (ek mk : Block) (c : BitVec 16) (t : Quad) (s : State),
    s.Session ek mk c t → c ≠ 65535#16 →
    let n := c + 1
    let mac := trunc (cmac mk (0x00 :: n.extractLsb' 0 8 :: n.extractLsb' 8 8 :: t.toBytes ++ rdata))
    exec (.smRsp [0x00] [0x91, 0x00] (rdata ++ mac)) s = .next
      { s with lastErr := some ⟨0x91, 0x00⟩, cmdCtr := some n, result := some ⟨.ok, [rdata]⟩ } ∧
    (rdata.length % 16 = 0 → exec (.smRsp [0x01] [0x91, 0x00] (rdata ++ mac)) s = .next
      { s with
        lastErr := some ⟨0x91, 0x00⟩, cmdCtr := some n,
        result := some ⟨.ok, [cbcDec (responseIv ek t n) ek rdata]⟩ })

/-- R220: with a card that holds the same keys, transaction identifier and counter, SM.RSP returns what the card
enciphered. Not of the source: the spec's own inference (R220). -/
def Obligations.CardResponseRecovered : Prop :=
  ∀ (p : Bytes) (ek mk : Block) (c : BitVec 16) (t : Quad) (s : State),
    s.Session ek mk c t → c ≠ 65535#16 → p.length % 16 = 0 →
    let d := cbcEnc (responseIv ek t (c + 1)) ek p
    exec (.smRsp [0x01] [0x91, 0x00] (d ++ responseMac mk (c + 1) t d)) s = .next
      { s with lastErr := some ⟨0x91, 0x00⟩, cmdCtr := some (c + 1), result := some ⟨.ok, [p]⟩ }

/-- R212: a pair other than `91 00` ends SM.RSP with the pair returned and mirrored; the counter, the body and the
session are not touched. Not of the source: the spec's own (D22, D23). -/
def Obligations.SmRspStatusRefused : Prop :=
  ∀ (mode e0 e1 : Byte) (body : Bytes) (s : State),
    s.authenticated = true → mode ≤ 0x01 → ¬(e0 = 0x91 ∧ e1 = 0x00) →
    exec (.smRsp [mode] [e0, e1] body) s = .next
      { s with lastErr := some ⟨e0, e1⟩, result := some ⟨.protocolStatus, [[e0, e1]]⟩ }

/-- R213: at the last counter value a success status clears the session, whatever the body. Not of the source: the
spec's own (D24). -/
def Obligations.SmRspCounterExhausted : Prop :=
  ∀ (mode : Byte) (body : Bytes) (s : State),
    s.authenticated = true → mode ≤ 0x01 → s.cmdCtr = some 65535#16 →
    exec (.smRsp [mode] [0x91, 0x00] body) s = .next
      { s.clearSession with lastErr := some ⟨0x91, 0x00⟩, result := some ⟨.counterExhausted, []⟩ }

/-- R214, R215: a body with no room for a MAC, or in mode 01 with data that is no whole number of blocks, is
malformed; the counter has moved and the session stays. Not of the source: the spec's own (D27). -/
def Obligations.SmRspMalformed : Prop :=
  ∀ (mode : Byte) (body : Bytes) (c : BitVec 16) (s : State),
    s.authenticated = true → mode ≤ 0x01 → s.cmdCtr = some c → c ≠ 65535#16 →
    (body.length < 8 ∨ (mode = 0x01 ∧ (body.length - 8) % 16 ≠ 0)) →
    exec (.smRsp [mode] [0x91, 0x00] body) s = .next
      { s with lastErr := some ⟨0x91, 0x00⟩, cmdCtr := some (c + 1), result := some ⟨.malformedResponse, []⟩ }

/-- R216: a wrong MAC gives no data; the counter has moved and the session stays. Not of the source: the spec's own
(D25). -/
def Obligations.SmRspMacFailed : Prop :=
  ∀ (mode : Byte) (rdata mac : Bytes) (ek mk : Block) (c : BitVec 16) (t : Quad) (s : State),
    s.Session ek mk c t → c ≠ 65535#16 → mode ≤ 0x01 → mac.length = 8 → (mode = 0x01 → rdata.length % 16 = 0) →
    mac ≠ trunc (cmac mk (0x00 :: (c + 1).extractLsb' 0 8 :: (c + 1).extractLsb' 8 8 :: t.toBytes ++ rdata)) →
    exec (.smRsp [mode] [0x91, 0x00] (rdata ++ mac)) s = .next
      { s with lastErr := some ⟨0x91, 0x00⟩, cmdCtr := some (c + 1), result := some ⟨.responseMacFailed, []⟩ }

/-! ## The whole machine -/

/-- Every step keeps the well-formed states well-formed (R45 with R26, R31, R38, R39). Not of the source: the spec's
own inference (R45). -/
def Obligations.StepKeepsWellFormed : Prop :=
  ∀ s t : State, s.WellFormed → step s = .next t → t.WellFormed

/-- The reset state is well-formed (R31, R38). Not of the source: the spec's own inference (R31, R38, R45). -/
def Obligations.ResetWellFormed : Prop := State.reset.WellFormed

/-- From a well-formed state every step answers a next state: no fault, no refusal, whatever the input (R14, R308,
R326); and every descriptor is answered by one result record, the other inputs as they were (R62, R73), whose output
fields are one pair of bytes for PROTOCOL_STATUS and none for every other code but OK (R75). Not of the source: the
record's fields are the spec's own (D4); the wait is the model's (log 2). -/
def Obligations.WellFormedStepAnswers : Prop :=
  ∀ s : State, s.WellFormed → (∃ t : State, step s = .next t) ∧
    ∀ d : Bytes, ∃ t r, step (s.offer d) = .next t ∧ t.result = some r ∧ t.inputs = s.inputs ∧
      (r.rc = .protocolStatus → ∃ e0 e1 : Byte, r.outs = [[e0, e1]]) ∧
      (r.rc ≠ .ok → r.rc ≠ .protocolStatus → r.outs = [])

/-- R219: while the counter is valid, a step leaves it, adds exactly 1, or clears it: it never decreases and never
wraps. Not of the source: the spec's own inference (R219). -/
def Obligations.CounterNeverDecreases : Prop :=
  ∀ (s t : State) (c : BitVec 16), s.WellFormed → s.cmdCtr = some c → step s = .next t →
    t.cmdCtr = some c ∨ (c.toNat < 65535 ∧ t.cmdCtr = some (c + 1) ∧ t.ti = s.ti) ∨ t.cmdCtr = none

/-- R185: only a successful AUTH.FIN sets a flag or gives a session key, KEYNO or TI a value; CMDCTR gets one from it
or from SM.RSP. -/
def Obligations.OnlyAuthFinLoadsSession : Prop :=
  ∀ (i : Instr) (s t : State), exec i s = .next t → ¬(i.opcode = .authFin ∧ t.result.map Result.rc = some .ok) →
    (t.sesEncKey = s.sesEncKey ∨ t.sesEncKey = none) ∧ (t.sesMacKey = s.sesMacKey ∨ t.sesMacKey = none) ∧
    (t.keyNo = s.keyNo ∨ t.keyNo = none) ∧ (t.ti = s.ti ∨ t.ti = none) ∧
    (t.authFirst = s.authFirst ∨ t.authFirst = false) ∧ (t.authNonFirst = s.authNonFirst ∨ t.authNonFirst = false) ∧
    (i.opcode ≠ .smRsp → t.cmdCtr = s.cmdCtr ∨ t.cmdCtr = none)

/-- R28, R272: no operation empties LASTERR, and only the operations R28 names change it. Not of the source: the
spec's own inference (R272, D22). -/
def Obligations.LastErrorOutlivesClearing : Prop :=
  ∀ (i : Instr) (s t : State), exec i s = .next t →
    (s.lastErr.isSome = true → t.lastErr.isSome = true) ∧
    (t.lastErr ≠ s.lastErr →
      (∃ st body, i = .authChal st body) ∨ (∃ st body, i = .authFin st body) ∨ (∃ m st body, i = .smRsp m st body) ∨
      (∃ e, i = .ssSeterr e) ∨ t.result = some ⟨.precondition, []⟩)

/-- R264: a descriptor that raises one of the codes 01 to 05 changes nothing but the record, and raises it in every
state. Not of the source: the spec's own (D20). -/
def Obligations.ProgrammingErrorsChangeNothing : Prop :=
  ∀ (d : Bytes) (s t : State) (r : Result),
    step (s.offer d) = .next t → t.result = some r → r.rc.ProgrammingError →
    ∀ u : State, step (u.offer d) = .next { u with result := some r }

/-- R60: the stateless operations, the read-only secured operations, SS.STATUS, SS.CLEAR and SS.SETERR, issued twice,
give the same result and leave the state as the first issue left it. -/
def Obligations.RepeatedOperationsIdempotent : Prop :=
  ∀ (i : Instr) (s t : State), exec i s = .next t →
    i.opcode ≠ .authStart → i.opcode ≠ .authChal → i.opcode ≠ .authFin → i.opcode ≠ .smRsp → exec i t = .next t

/-- R34, R40, R76: outside AUTH.CHAL, AUTH.FIN and the secured operations, no result depends on the value of a session
key, of the authentication key or of a nonce. Not of the source: the spec's own (D8). -/
def Obligations.SecretsNotObservable : Prop :=
  ∀ (i : Instr) (s u t : State),
    i.opcode ≠ .authChal → i.opcode ≠ .authFin → i.opcode ≠ .smIvc → i.opcode ≠ .smIvr → i.opcode ≠ .smCmd →
    i.opcode ≠ .smRsp → s.SameButSecrets u → exec i s = .next t →
    ∃ v : State, exec i u = .next v ∧ v.result = t.result ∧ t.SameButSecrets v

/-- R178: the draw is consumed by AUTH.CHAL that ends in OK, and by nothing else; on every other path its value has no
effect. Not of the source: the spec's own (D15); where the draw stands is the model's (log 5). -/
def Obligations.DrawConsumedOnlyOnOk : Prop :=
  ∀ (i : Instr) (s t : State), exec i s = .next t →
    (t.draws = s.draws ∧ t.drawCount = s.drawCount ∧
      ∀ (ds : List Block) (n : Nat), exec i { s with draws := ds, drawCount := n } =
        .next { t with draws := ds, drawCount := n }) ∨
    (i.opcode = .authChal ∧ t.result.map Result.rc = some .ok ∧ t.draws = s.draws.tail ∧ t.drawCount = s.drawCount + 1)

/-! ## The host's side -/

/-- R230, R231: the envelope and the splitting of a reply. -/
def Obligations.EnvelopeAndStatusPair : Prop :=
  (∀ (cmdCode : Byte) (data : Bytes), data.length ≤ 255 →
    wrap? cmdCode data = some (0x90 :: cmdCode :: 0x00 :: 0x00 :: BitVec.ofNat 8 data.length :: data ++ [0x00])) ∧
  (∀ (body : Bytes) (e0 e1 : Byte), splitStatus? (body ++ [e0, e1]) = some (body, [e0, e1])) ∧
  (∀ reply : Bytes, reply.length < 2 → splitStatus? reply = none)

/-- R242: a connectivity error on a secured command leaves the session as it was; the host's transport code is
recorded. Not of the source: the host's procedure and its transport code as the model holds them (log 8). -/
def Obligations.LostCommandLeavesSession : Prop :=
  ∀ (cmdCode : Byte) (c : SecuredCommand) (data : Bytes) (s t : State),
    Instr.WellFormed (.smCmd [cmdCode] c.header c.plaintext) →
    exec (.smCmd [cmdCode] c.header c.plaintext) s = .next t → t.result = some ⟨.ok, [data]⟩ → data.length ≤ 255 →
    hostSecuredCommand cmdCode c none s = .next
      ⟨.transport, [wrap cmdCode data],
        { s with lastErr := some Config.transportErrcode, result := some ⟨.ok, []⟩ }⟩

/-- R240, R231: a connectivity error, or a reply without a status pair, at either exchange of either variant ends the
authentication procedure with everything cleared, CMDCTR, TI and the nonces with it, and the host's transport code
recorded; what had been sent is the envelope of `param`, and at the second exchange that of the second message as
well. A NonFirst procedure reaches its exchanges with CMDCTR and TI valid (R172). Not of the source: the short reply
as a lost one is the spec's own (D14), the host's procedure and its codes as the model holds them (log 8, D45). -/
def Obligations.LostHandshakeClears : Prop :=
  ∀ (v : Variant) (keyNo : Byte) (authKey : Bytes) (lost : Option Bytes) (s : State),
    keyNo ≤ 0x0E → authKey.length = 16 → (v = .nonFirst → s.cmdCtr.isSome = true ∧ s.ti.isSome = true) →
    (∀ reply, lost = some reply → reply.length < 2) →
    let param : Bytes := if v = .first then [keyNo, 0x00] else [keyNo]
    let abandoned : State := { s.clearSession with lastErr := some Config.transportErrcode, result := some ⟨.ok, []⟩ }
    abandoned.Cleared ∧
    (∀ reply2 : Option Bytes,
      hostAuthenticate v keyNo authKey lost reply2 s = .next ⟨.transport, [wrap (authCmd v) param], abandoned⟩) ∧
    (∀ body1 : Bytes, body1.length = 16 →
      let k := Block.ofBytes authKey
      let randB := aesDec k (Block.ofBytes body1)
      let msg2 := cbcEnc Block.zero k (s.nextDraw.toBytes ++ rotL1 randB.toBytes)
      hostAuthenticate v keyNo authKey (some (body1 ++ [0x91, 0xAF])) lost s =
        .next ⟨.transport, [wrap (authCmd v) param, wrap Config.authCmd2 msg2],
          { abandoned with draws := s.draws.tail, drawCount := s.drawCount + 1 }⟩)

/-- R240, R303: after the First authentication procedure with a card that follows the protocol, the engine is
Authenticated with counter 0, and the host got the capability bytes. Not of the source: the host's procedure and its
codes as the model holds them (log 8, D45). -/
def Obligations.HostAuthenticatesFirst : Prop :=
  ∀ (keyNo : Byte) (k randB : Block) (ti : Quad) (caps : Bytes) (s : State), keyNo ≤ 0x0E → caps.length = 12 →
    let randA := s.nextDraw
    let reply1 := cbcEnc Block.zero k randB.toBytes ++ [0x91, 0xAF]
    let reply2 := cbcEnc Block.zero k (ti.toBytes ++ rotL1 randA.toBytes ++ caps) ++ [0x91, 0x00]
    ∃ (sent : List Bytes) (t : State),
      hostAuthenticate .first keyNo k.toBytes (some reply1) (some reply2) s = .next ⟨.success [caps], sent, t⟩ ∧
      sent.length = 2 ∧ t.authenticated = true ∧ t.cmdCtr = some 0 ∧ t.ti = some ti
end

