-- ==== Sys2Proof/Laws/Bytes.lean ====
section
/-! SUPPORT. The small lemmas of the byte-string operations: lengths, reading back what was written, cutting into blocks. -/

namespace Sys2Proof

theorem zeros_length (n : Nat) : (zeros n).length = n := by simp [zeros]

theorem littleEndian_length (n v : Nat) : (littleEndian n v).length = n := by
  induction n generalizing v with
  | zero => rfl
  | succ n ih => simp [littleEndian, ih]

@[simp] theorem le16_length (n : Nat) : (le16 n).length = 2 := littleEndian_length 2 n

@[simp] theorem Quad.toBytes_length (q : Quad) : q.toBytes.length = 4 := rfl

@[simp] theorem Block.toBytes_length (x : Block) : x.toBytes.length = 16 := rfl

@[simp] theorem StatusPair.toBytes_length (p : StatusPair) : p.toBytes.length = 2 := rfl

@[simp] theorem Quad.ofBytes_toBytes (q : Quad) : Quad.ofBytes q.toBytes = q := rfl

@[simp] theorem Block.ofBytes_toBytes (x : Block) : Block.ofBytes x.toBytes = x := rfl

@[simp] theorem StatusPair.ofBytes?_toBytes (p : StatusPair) : StatusPair.ofBytes? p.toBytes = some p := rfl

@[simp] theorem Block.ofBytes?_toBytes (x : Block) : Block.ofBytes? x.toBytes = some x := rfl

/-- A string of 16 bytes, spelled out. -/
theorem eq_toBytes_of_length (b : Bytes) (h : b.length = 16) : b = (Block.ofBytes b).toBytes := by
  match b, h with
  | [_, _, _, _, _, _, _, _, _, _, _, _, _, _, _, _], _ => rfl

/-- The 16-byte length test passes exactly on the strings of a block, and gives that block back. -/
theorem Block.ofBytes?_eq_some_iff (b : Bytes) (x : Block) : Block.ofBytes? b = some x ↔ b = x.toBytes := by
  constructor
  · intro h
    by_cases hl : b.length = 16
    · simp only [Block.ofBytes?, Config.blockLen, hl, if_true, Option.some.injEq] at h
      rw [← h]
      exact eq_toBytes_of_length b hl
    · simp [Block.ofBytes?, Config.blockLen, hl] at h
  · rintro rfl
    simp

/-- The 16-byte length test fails exactly on the other lengths. -/
theorem Block.ofBytes?_eq_none_iff (b : Bytes) : Block.ofBytes? b = none ↔ b.length ≠ 16 := by
  by_cases h : b.length = 16 <;> simp [Block.ofBytes?, Config.blockLen, h]

/-- The 2-byte length test fails exactly on the other lengths. -/
theorem StatusPair.ofBytes?_eq_none_iff (b : Bytes) : StatusPair.ofBytes? b = none ↔ b.length ≠ 2 := by
  match b with
  | [] => simp [StatusPair.ofBytes?]
  | [_] => simp [StatusPair.ofBytes?]
  | [_, _] => simp [StatusPair.ofBytes?]
  | _ :: _ :: _ :: _ => simp [StatusPair.ofBytes?]

/-- The 2-byte length test passes exactly on the strings of a pair, and gives that pair back. -/
theorem StatusPair.ofBytes?_eq_some_iff (b : Bytes) (p : StatusPair) :
    StatusPair.ofBytes? b = some p ↔ b = p.toBytes := by
  match b with
  | [] => simp [StatusPair.ofBytes?, StatusPair.toBytes]
  | [_] => simp [StatusPair.ofBytes?, StatusPair.toBytes]
  | [x, y] => cases p; simp [StatusPair.ofBytes?, StatusPair.toBytes]
  | _ :: _ :: _ :: _ => simp [StatusPair.ofBytes?, StatusPair.toBytes]

@[simp] theorem splitBlocks_nil : splitBlocks [] = ([], []) := rfl

/-- A block in front of a string is its first block. -/
@[simp] theorem splitBlocks_toBytes_append (x : Block) (b : Bytes) :
    splitBlocks (x.toBytes ++ b) = (x :: (splitBlocks b).1, (splitBlocks b).2) := rfl

/-- A string shorter than a block is all left over. -/
theorem splitBlocks_short (b : Bytes) (h : b.length < 16) : splitBlocks b = ([], b) := by
  unfold splitBlocks
  split
  · simp at h; omega
  · rfl

@[simp] theorem blocksToBytes_nil : blocksToBytes [] = [] := rfl

@[simp] theorem blocksToBytes_cons (x : Block) (xs : List Block) :
    blocksToBytes (x :: xs) = x.toBytes ++ blocksToBytes xs := rfl

theorem blocksToBytes_append (xs ys : List Block) :
    blocksToBytes (xs ++ ys) = blocksToBytes xs ++ blocksToBytes ys := by
  simp [blocksToBytes]

@[simp] theorem blocksToBytes_length (xs : List Block) : (blocksToBytes xs).length = 16 * xs.length := by
  induction xs with
  | nil => rfl
  | cons x xs ih => simp [ih]; omega

/-- A string is its whole blocks followed by what is left over. -/
theorem splitBlocks_append (xs : List Block) (b : Bytes) :
    splitBlocks (blocksToBytes xs ++ b) = (xs ++ (splitBlocks b).1, (splitBlocks b).2) := by
  induction xs with
  | nil => simp
  | cons x xs ih => simp [List.append_assoc, ih]

@[simp] theorem splitBlocks_blocksToBytes (xs : List Block) : splitBlocks (blocksToBytes xs) = (xs, []) := by
  simpa using splitBlocks_append xs []

/-- Every string is its whole blocks and a rest shorter than a block. -/
theorem exists_blocks_append (b : Bytes) : ∃ xs l, b = blocksToBytes xs ++ l ∧ l.length < 16 := by
  induction hn : b.length using Nat.strong_induction_on generalizing b with
  | _ n ih =>
    by_cases hl : b.length < 16
    · exact ⟨[], b, rfl, hl⟩
    · obtain ⟨xs, l, hb, hlen⟩ := ih (b.drop 16).length (by simp; omega) (b.drop 16) rfl
      refine ⟨Block.ofBytes (b.take 16) :: xs, l, ?_, hlen⟩
      rw [blocksToBytes_cons, List.append_assoc, ← hb, ← eq_toBytes_of_length _ (by simp; omega),
        List.take_append_drop]

/-- A string whose length is a multiple of 16 is the string of its blocks. -/
theorem blocksToBytes_splitBlocks (b : Bytes) (h : b.length % 16 = 0) : blocksToBytes (splitBlocks b).1 = b := by
  obtain ⟨xs, l, rfl, hl⟩ := exists_blocks_append b
  have : l = [] := by
    simp only [List.length_append, blocksToBytes_length] at h
    exact List.length_eq_zero_iff.mp (by omega)
  simp [this]

end Sys2Proof
end

