-- ==== Sys2Proof/Laws/Cipher.lean ====
section
/-! SUPPORT. The small lemmas of exclusive-or, of CBC chaining and of what is derived from it: lengths, the form on whole
blocks, the form on one block. -/

namespace Sys2Proof.Machine

open Sys2Proof

theorem Quad.xor_xor (a b : Quad) : (a.xor b).xor b = a := by
  cases a; cases b; simp [Quad.xor]

theorem Block.xor_xor (a b : Block) : (a.xor b).xor b = a := by
  cases a; cases b; simp [Block.xor, Quad.xor_xor]

theorem Block.xor_comm (a b : Block) : a.xor b = b.xor a := by
  obtain ⟨⟨_, _, _, _⟩, ⟨_, _, _, _⟩, ⟨_, _, _, _⟩, ⟨_, _, _, _⟩⟩ := a
  obtain ⟨⟨_, _, _, _⟩, ⟨_, _, _, _⟩, ⟨_, _, _, _⟩, ⟨_, _, _, _⟩⟩ := b
  simp [Block.xor, Quad.xor, BitVec.xor_comm]

@[simp] theorem Block.xor_zero (a : Block) : a.xor Block.zero = a := by
  obtain ⟨⟨_, _, _, _⟩, ⟨_, _, _, _⟩, ⟨_, _, _, _⟩, ⟨_, _, _, _⟩⟩ := a
  simp [Block.xor, Quad.xor, Block.zero, Block.ofBytes, Quad.ofBytes, zeros]

@[simp] theorem cbcEncBlocks_nil (k iv : Block) : cbcEncBlocks k iv [] = [] := rfl

@[simp] theorem cbcEncBlocks_cons (k iv p : Block) (ps : List Block) :
    cbcEncBlocks k iv (p :: ps) = aesEnc k (p.xor iv) :: cbcEncBlocks k (aesEnc k (p.xor iv)) ps := rfl

@[simp] theorem cbcDecBlocks_nil (k iv : Block) : cbcDecBlocks k iv [] = [] := rfl

@[simp] theorem cbcDecBlocks_cons (k iv c : Block) (cs : List Block) :
    cbcDecBlocks k iv (c :: cs) = (aesDec k c).xor iv :: cbcDecBlocks k c cs := rfl

@[simp] theorem cbcEncBlocks_length (k : Block) (ps : List Block) (iv : Block) :
    (cbcEncBlocks k iv ps).length = ps.length := by
  induction ps generalizing iv with
  | nil => rfl
  | cons p ps ih => simp [ih]

@[simp] theorem cbcDecBlocks_length (k : Block) (cs : List Block) (iv : Block) :
    (cbcDecBlocks k iv cs).length = cs.length := by
  induction cs generalizing iv with
  | nil => rfl
  | cons c cs ih => simp [ih]

@[simp] theorem cbcEnc_blocksToBytes (iv k : Block) (ps : List Block) :
    cbcEnc iv k (blocksToBytes ps) = blocksToBytes (cbcEncBlocks k iv ps) := by simp [cbcEnc]

@[simp] theorem cbcDec_blocksToBytes (iv k : Block) (cs : List Block) :
    cbcDec iv k (blocksToBytes cs) = blocksToBytes (cbcDecBlocks k iv cs) := by simp [cbcDec]

/-- A string whose length is a multiple of 16 is the string of some blocks. -/
theorem exists_blocksToBytes (b : Bytes) (h : b.length % 16 = 0) : ∃ xs, b = blocksToBytes xs :=
  ⟨_, (blocksToBytes_splitBlocks b h).symm⟩

/-- Enciphering keeps the length of whole blocks. -/
theorem cbcEnc_length (iv k : Block) (p : Bytes) (h : p.length % 16 = 0) : (cbcEnc iv k p).length = p.length := by
  obtain ⟨xs, rfl⟩ := exists_blocksToBytes p h; simp

/-- Deciphering keeps the length of whole blocks. -/
theorem cbcDec_length (iv k : Block) (c : Bytes) (h : c.length % 16 = 0) : (cbcDec iv k c).length = c.length := by
  obtain ⟨xs, rfl⟩ := exists_blocksToBytes c h; simp

@[simp] theorem splitBlocks_toBytes (x : Block) : splitBlocks x.toBytes = ([x], []) := by
  simpa using splitBlocks_toBytes_append x []

/-- One block enciphered under the zero IV. -/
@[simp] theorem cbcEnc_zero_toBytes (k x : Block) : cbcEnc Block.zero k x.toBytes = (aesEnc k x).toBytes := by
  simp [cbcEnc]

/-- One block deciphered under the zero IV. -/
@[simp] theorem cbcDec_zero_toBytes (k x : Block) : cbcDec Block.zero k x.toBytes = (aesDec k x).toBytes := by
  simp [cbcDec]

@[simp] theorem trunc_length (t : Block) : (trunc t).length = 8 := rfl

/-- The counter as its two bytes, the low one first. -/
theorem counterBytes_eq (c : BitVec 16) : counterBytes c = [c.extractLsb' 0 8, c.extractLsb' 8 8] := by
  have h1 : BitVec.ofNat 8 c.toNat = BitVec.extractLsb' 0 8 c := by
    apply BitVec.eq_of_toNat_eq; simp
  have h2 : BitVec.ofNat 8 (c.toNat / 256) = BitVec.extractLsb' 8 8 c := by
    apply BitVec.eq_of_toNat_eq; simp [Nat.shiftRight_eq_div_pow]
  simp only [counterBytes, le16, littleEndian, h1, h2]

end Sys2Proof.Machine
end

