-- ==== Sys2Proof/Laws/Decode.lean ====
section
/-! SUPPORT. The parts of the descriptor's decoder and encoder, each said once: a field, a run of fields, a table row, the
assembling of an operation. -/

namespace Sys2Proof

/-- The two bytes of a length prefix read back as the length. -/
theorem fromLE16_le16 (n : Nat) (h : n ≤ 65535) : ∃ lo hi, le16 n = [lo, hi] ∧ fromLE16 lo hi = n := by
  refine ⟨_, _, rfl, ?_⟩
  simp [fromLE16]; omega

/-- Taking a field gives back the field that was put in front. -/
theorem takeField_encodeField (b rest : Bytes) (h : FitsField b) : takeField (encodeField b ++ rest) = some (b, rest) := by
  obtain ⟨x, y, h1, h2⟩ := fromLE16_le16 b.length h
  simp [encodeField, h1, takeField, h2]

/-- A taken field was in front, and it fits the two-byte prefix. -/
theorem takeField_some {d a r : Bytes} (h : takeField d = some (a, r)) : encodeField a ++ r = d ∧ FitsField a := by
  unfold takeField at h
  split at h
  · rename_i lo hi rest
    split at h
    · rename_i hle
      simp only [Option.some.injEq, Prod.mk.injEq] at h
      obtain ⟨rfl, rfl⟩ := h
      have hb := lo.isLt
      have hb' := hi.isLt
      have hl : (rest.take (fromLE16 lo hi)).length = fromLE16 lo hi := by simp [hle]
      constructor
      · simp only [encodeField, hl, List.append_assoc, List.take_append_drop]
        simp only [le16, littleEndian, fromLE16]
        simp
        constructor <;> apply BitVec.eq_of_toNat_eq <;> simp <;> omega
      · show (rest.take (fromLE16 lo hi)).length ≤ 65535
        rw [hl, fromLE16]; omega
    · simp at h
  · simp at h

/-- Taking as many fields as were put in front gives them back. -/
theorem takeFields_encodeField (as : List Bytes) (rest : Bytes) (h : ∀ a ∈ as, FitsField a) :
    takeFields as.length (as.flatMap encodeField ++ rest) = some (as, rest) := by
  induction as with
  | nil => rfl
  | cons a as ih =>
    simp only [List.length_cons, List.flatMap_cons, List.append_assoc, takeFields]
    rw [takeField_encodeField _ _ (h a (by simp))]
    simp [ih (fun b hb => h b (by simp [hb]))]

/-- The fields that were taken were in front, each fits its prefix, and there are as many as asked for. -/
theorem takeFields_some {k : Nat} {d : Bytes} {as : List Bytes} {r : Bytes} (h : takeFields k d = some (as, r)) :
    as.flatMap encodeField ++ r = d ∧ (∀ a ∈ as, FitsField a) ∧ as.length = k := by
  induction k generalizing d as with
  | zero => simp [takeFields] at h; obtain ⟨rfl, rfl⟩ := h; simp
  | succ k ih =>
    simp only [takeFields] at h
    split at h
    · simp at h
    · rename_i a rest h1
      split at h
      · simp at h
      · rename_i args left h2
        simp only [Option.some.injEq, Prod.mk.injEq] at h
        obtain ⟨rfl, rfl⟩ := h
        obtain ⟨e1, e2⟩ := takeField_some h1
        obtain ⟨f1, f2, f3⟩ := ih h2
        refine ⟨by simp [f1, e1], ?_, by simp [f3]⟩
        intro b hb
        rcases List.mem_cons.mp hb with rfl | hb
        · exact e2
        · exact f2 _ hb

/-- The row found for a code is a row of the table, with that code. -/
theorem opcodeRow?_some {c : Byte} {r : OpcodeRow} (h : opcodeRow? c = some r) : r ∈ opcodeTable ∧ r.code = c :=
  ⟨List.mem_of_find?_eq_some h, by simpa using List.find?_some h⟩

/-- Every row of the table stands under the code of its operation. -/
theorem opcodeTable_code : ∀ r ∈ opcodeTable, r.op.code = r.code := by decide

/-- What was assembled is that operation with those fields. -/
theorem assemble_some {o : Opcode} {as : List Bytes} {i : Instr} (h : assemble o as = some i) :
    i.opcode = o ∧ i.operands = as := by
  unfold assemble at h
  split at h <;> first | (simp at h; subst h; exact ⟨rfl, rfl⟩) | simp at h

/-- No two rows of the operation map stand under one code (R78). -/
theorem opcodeTable_no_overlap : opcodeTable.Pairwise fun a b => a.code ≠ b.code := by decide

end Sys2Proof
end

