-- ==== Sys2Proof/Laws/State.lean ====
section
/-! SUPPORT. What each named update of the state leaves in each field: one lemma per field per update, so that no proof
unfolds a record update. -/

namespace Sys2Proof.Machine

open Sys2Proof

@[simp] theorem State.setLastErr_sesEncKey (s : State) (p : StatusPair) : (s.setLastErr p).sesEncKey = s.sesEncKey := rfl
@[simp] theorem State.setLastErr_sesMacKey (s : State) (p : StatusPair) : (s.setLastErr p).sesMacKey = s.sesMacKey := rfl
@[simp] theorem State.setLastErr_cmdCtr (s : State) (p : StatusPair) : (s.setLastErr p).cmdCtr = s.cmdCtr := rfl
@[simp] theorem State.setLastErr_ti (s : State) (p : StatusPair) : (s.setLastErr p).ti = s.ti := rfl
@[simp] theorem State.setLastErr_authFirst (s : State) (p : StatusPair) : (s.setLastErr p).authFirst = s.authFirst := rfl
@[simp] theorem State.setLastErr_authNonFirst (s : State) (p : StatusPair) : (s.setLastErr p).authNonFirst = s.authNonFirst := rfl
@[simp] theorem State.setLastErr_keyNo (s : State) (p : StatusPair) : (s.setLastErr p).keyNo = s.keyNo := rfl
@[simp] theorem State.setLastErr_lastErr (s : State) (p : StatusPair) : (s.setLastErr p).lastErr = some p := rfl
@[simp] theorem State.setLastErr_hsPhase (s : State) (p : StatusPair) : (s.setLastErr p).hsPhase = s.hsPhase := rfl
@[simp] theorem State.setLastErr_hsVariant (s : State) (p : StatusPair) : (s.setLastErr p).hsVariant = s.hsVariant := rfl
@[simp] theorem State.setLastErr_hsKeyNo (s : State) (p : StatusPair) : (s.setLastErr p).hsKeyNo = s.hsKeyNo := rfl
@[simp] theorem State.setLastErr_hsAuthKey (s : State) (p : StatusPair) : (s.setLastErr p).hsAuthKey = s.hsAuthKey := rfl
@[simp] theorem State.setLastErr_hsRndA (s : State) (p : StatusPair) : (s.setLastErr p).hsRndA = s.hsRndA := rfl
@[simp] theorem State.setLastErr_hsRndB (s : State) (p : StatusPair) : (s.setLastErr p).hsRndB = s.hsRndB := rfl
@[simp] theorem State.setLastErr_inputs (s : State) (p : StatusPair) : (s.setLastErr p).inputs = s.inputs := rfl
@[simp] theorem State.setLastErr_result (s : State) (p : StatusPair) : (s.setLastErr p).result = s.result := rfl
@[simp] theorem State.setLastErr_draws (s : State) (p : StatusPair) : (s.setLastErr p).draws = s.draws := rfl
@[simp] theorem State.setLastErr_drawCount (s : State) (p : StatusPair) : (s.setLastErr p).drawCount = s.drawCount := rfl

@[simp] theorem State.setCmdCtr_sesEncKey (s : State) (n : BitVec 16) : (s.setCmdCtr n).sesEncKey = s.sesEncKey := rfl
@[simp] theorem State.setCmdCtr_sesMacKey (s : State) (n : BitVec 16) : (s.setCmdCtr n).sesMacKey = s.sesMacKey := rfl
@[simp] theorem State.setCmdCtr_cmdCtr (s : State) (n : BitVec 16) : (s.setCmdCtr n).cmdCtr = some n := rfl
@[simp] theorem State.setCmdCtr_ti (s : State) (n : BitVec 16) : (s.setCmdCtr n).ti = s.ti := rfl
@[simp] theorem State.setCmdCtr_authFirst (s : State) (n : BitVec 16) : (s.setCmdCtr n).authFirst = s.authFirst := rfl
@[simp] theorem State.setCmdCtr_authNonFirst (s : State) (n : BitVec 16) : (s.setCmdCtr n).authNonFirst = s.authNonFirst := rfl
@[simp] theorem State.setCmdCtr_keyNo (s : State) (n : BitVec 16) : (s.setCmdCtr n).keyNo = s.keyNo := rfl
@[simp] theorem State.setCmdCtr_lastErr (s : State) (n : BitVec 16) : (s.setCmdCtr n).lastErr = s.lastErr := rfl
@[simp] theorem State.setCmdCtr_hsPhase (s : State) (n : BitVec 16) : (s.setCmdCtr n).hsPhase = s.hsPhase := rfl
@[simp] theorem State.setCmdCtr_hsVariant (s : State) (n : BitVec 16) : (s.setCmdCtr n).hsVariant = s.hsVariant := rfl
@[simp] theorem State.setCmdCtr_hsKeyNo (s : State) (n : BitVec 16) : (s.setCmdCtr n).hsKeyNo = s.hsKeyNo := rfl
@[simp] theorem State.setCmdCtr_hsAuthKey (s : State) (n : BitVec 16) : (s.setCmdCtr n).hsAuthKey = s.hsAuthKey := rfl
@[simp] theorem State.setCmdCtr_hsRndA (s : State) (n : BitVec 16) : (s.setCmdCtr n).hsRndA = s.hsRndA := rfl
@[simp] theorem State.setCmdCtr_hsRndB (s : State) (n : BitVec 16) : (s.setCmdCtr n).hsRndB = s.hsRndB := rfl
@[simp] theorem State.setCmdCtr_inputs (s : State) (n : BitVec 16) : (s.setCmdCtr n).inputs = s.inputs := rfl
@[simp] theorem State.setCmdCtr_result (s : State) (n : BitVec 16) : (s.setCmdCtr n).result = s.result := rfl
@[simp] theorem State.setCmdCtr_draws (s : State) (n : BitVec 16) : (s.setCmdCtr n).draws = s.draws := rfl
@[simp] theorem State.setCmdCtr_drawCount (s : State) (n : BitVec 16) : (s.setCmdCtr n).drawCount = s.drawCount := rfl

@[simp] theorem State.clearScratch_sesEncKey (s : State) : s.clearScratch.sesEncKey = s.sesEncKey := rfl
@[simp] theorem State.clearScratch_sesMacKey (s : State) : s.clearScratch.sesMacKey = s.sesMacKey := rfl
@[simp] theorem State.clearScratch_cmdCtr (s : State) : s.clearScratch.cmdCtr = s.cmdCtr := rfl
@[simp] theorem State.clearScratch_ti (s : State) : s.clearScratch.ti = s.ti := rfl
@[simp] theorem State.clearScratch_authFirst (s : State) : s.clearScratch.authFirst = s.authFirst := rfl
@[simp] theorem State.clearScratch_authNonFirst (s : State) : s.clearScratch.authNonFirst = s.authNonFirst := rfl
@[simp] theorem State.clearScratch_keyNo (s : State) : s.clearScratch.keyNo = s.keyNo := rfl
@[simp] theorem State.clearScratch_lastErr (s : State) : s.clearScratch.lastErr = s.lastErr := rfl
@[simp] theorem State.clearScratch_hsPhase (s : State) : s.clearScratch.hsPhase = .idle := rfl
@[simp] theorem State.clearScratch_hsVariant (s : State) : s.clearScratch.hsVariant = none := rfl
@[simp] theorem State.clearScratch_hsKeyNo (s : State) : s.clearScratch.hsKeyNo = none := rfl
@[simp] theorem State.clearScratch_hsAuthKey (s : State) : s.clearScratch.hsAuthKey = none := rfl
@[simp] theorem State.clearScratch_hsRndA (s : State) : s.clearScratch.hsRndA = none := rfl
@[simp] theorem State.clearScratch_hsRndB (s : State) : s.clearScratch.hsRndB = none := rfl
@[simp] theorem State.clearScratch_inputs (s : State) : s.clearScratch.inputs = s.inputs := rfl
@[simp] theorem State.clearScratch_result (s : State) : s.clearScratch.result = s.result := rfl
@[simp] theorem State.clearScratch_draws (s : State) : s.clearScratch.draws = s.draws := rfl
@[simp] theorem State.clearScratch_drawCount (s : State) : s.clearScratch.drawCount = s.drawCount := rfl

@[simp] theorem State.clearForNonFirst_sesEncKey (s : State) : s.clearForNonFirst.sesEncKey = none := rfl
@[simp] theorem State.clearForNonFirst_sesMacKey (s : State) : s.clearForNonFirst.sesMacKey = none := rfl
@[simp] theorem State.clearForNonFirst_cmdCtr (s : State) : s.clearForNonFirst.cmdCtr = s.cmdCtr := rfl
@[simp] theorem State.clearForNonFirst_ti (s : State) : s.clearForNonFirst.ti = s.ti := rfl
@[simp] theorem State.clearForNonFirst_authFirst (s : State) : s.clearForNonFirst.authFirst = false := rfl
@[simp] theorem State.clearForNonFirst_authNonFirst (s : State) : s.clearForNonFirst.authNonFirst = false := rfl
@[simp] theorem State.clearForNonFirst_keyNo (s : State) : s.clearForNonFirst.keyNo = none := rfl
@[simp] theorem State.clearForNonFirst_lastErr (s : State) : s.clearForNonFirst.lastErr = s.lastErr := rfl
@[simp] theorem State.clearForNonFirst_hsPhase (s : State) : s.clearForNonFirst.hsPhase = .idle := rfl
@[simp] theorem State.clearForNonFirst_hsVariant (s : State) : s.clearForNonFirst.hsVariant = none := rfl
@[simp] theorem State.clearForNonFirst_hsKeyNo (s : State) : s.clearForNonFirst.hsKeyNo = none := rfl
@[simp] theorem State.clearForNonFirst_hsAuthKey (s : State) : s.clearForNonFirst.hsAuthKey = none := rfl
@[simp] theorem State.clearForNonFirst_hsRndA (s : State) : s.clearForNonFirst.hsRndA = none := rfl
@[simp] theorem State.clearForNonFirst_hsRndB (s : State) : s.clearForNonFirst.hsRndB = none := rfl
@[simp] theorem State.clearForNonFirst_inputs (s : State) : s.clearForNonFirst.inputs = s.inputs := rfl
@[simp] theorem State.clearForNonFirst_result (s : State) : s.clearForNonFirst.result = s.result := rfl
@[simp] theorem State.clearForNonFirst_draws (s : State) : s.clearForNonFirst.draws = s.draws := rfl
@[simp] theorem State.clearForNonFirst_drawCount (s : State) : s.clearForNonFirst.drawCount = s.drawCount := rfl

@[simp] theorem State.clearSession_sesEncKey (s : State) : s.clearSession.sesEncKey = none := rfl
@[simp] theorem State.clearSession_sesMacKey (s : State) : s.clearSession.sesMacKey = none := rfl
@[simp] theorem State.clearSession_cmdCtr (s : State) : s.clearSession.cmdCtr = none := rfl
@[simp] theorem State.clearSession_ti (s : State) : s.clearSession.ti = none := rfl
@[simp] theorem State.clearSession_authFirst (s : State) : s.clearSession.authFirst = false := rfl
@[simp] theorem State.clearSession_authNonFirst (s : State) : s.clearSession.authNonFirst = false := rfl
@[simp] theorem State.clearSession_keyNo (s : State) : s.clearSession.keyNo = none := rfl
@[simp] theorem State.clearSession_lastErr (s : State) : s.clearSession.lastErr = s.lastErr := rfl
@[simp] theorem State.clearSession_hsPhase (s : State) : s.clearSession.hsPhase = .idle := rfl
@[simp] theorem State.clearSession_hsVariant (s : State) : s.clearSession.hsVariant = none := rfl
@[simp] theorem State.clearSession_hsKeyNo (s : State) : s.clearSession.hsKeyNo = none := rfl
@[simp] theorem State.clearSession_hsAuthKey (s : State) : s.clearSession.hsAuthKey = none := rfl
@[simp] theorem State.clearSession_hsRndA (s : State) : s.clearSession.hsRndA = none := rfl
@[simp] theorem State.clearSession_hsRndB (s : State) : s.clearSession.hsRndB = none := rfl
@[simp] theorem State.clearSession_inputs (s : State) : s.clearSession.inputs = s.inputs := rfl
@[simp] theorem State.clearSession_result (s : State) : s.clearSession.result = s.result := rfl
@[simp] theorem State.clearSession_draws (s : State) : s.clearSession.draws = s.draws := rfl
@[simp] theorem State.clearSession_drawCount (s : State) : s.clearSession.drawCount = s.drawCount := rfl

@[simp] theorem State.openHandshake_sesEncKey (s : State) (v : Variant) (n : Fin 15) (k : Block) : (s.openHandshake v n k).sesEncKey = s.sesEncKey := rfl
@[simp] theorem State.openHandshake_sesMacKey (s : State) (v : Variant) (n : Fin 15) (k : Block) : (s.openHandshake v n k).sesMacKey = s.sesMacKey := rfl
@[simp] theorem State.openHandshake_cmdCtr (s : State) (v : Variant) (n : Fin 15) (k : Block) : (s.openHandshake v n k).cmdCtr = s.cmdCtr := rfl
@[simp] theorem State.openHandshake_ti (s : State) (v : Variant) (n : Fin 15) (k : Block) : (s.openHandshake v n k).ti = s.ti := rfl
@[simp] theorem State.openHandshake_authFirst (s : State) (v : Variant) (n : Fin 15) (k : Block) : (s.openHandshake v n k).authFirst = s.authFirst := rfl
@[simp] theorem State.openHandshake_authNonFirst (s : State) (v : Variant) (n : Fin 15) (k : Block) : (s.openHandshake v n k).authNonFirst = s.authNonFirst := rfl
@[simp] theorem State.openHandshake_keyNo (s : State) (v : Variant) (n : Fin 15) (k : Block) : (s.openHandshake v n k).keyNo = s.keyNo := rfl
@[simp] theorem State.openHandshake_lastErr (s : State) (v : Variant) (n : Fin 15) (k : Block) : (s.openHandshake v n k).lastErr = s.lastErr := rfl
@[simp] theorem State.openHandshake_hsPhase (s : State) (v : Variant) (n : Fin 15) (k : Block) : (s.openHandshake v n k).hsPhase = .waitRndB := rfl
@[simp] theorem State.openHandshake_hsVariant (s : State) (v : Variant) (n : Fin 15) (k : Block) : (s.openHandshake v n k).hsVariant = some v := rfl
@[simp] theorem State.openHandshake_hsKeyNo (s : State) (v : Variant) (n : Fin 15) (k : Block) : (s.openHandshake v n k).hsKeyNo = some n := rfl
@[simp] theorem State.openHandshake_hsAuthKey (s : State) (v : Variant) (n : Fin 15) (k : Block) : (s.openHandshake v n k).hsAuthKey = some k := rfl
@[simp] theorem State.openHandshake_hsRndA (s : State) (v : Variant) (n : Fin 15) (k : Block) : (s.openHandshake v n k).hsRndA = s.hsRndA := rfl
@[simp] theorem State.openHandshake_hsRndB (s : State) (v : Variant) (n : Fin 15) (k : Block) : (s.openHandshake v n k).hsRndB = s.hsRndB := rfl
@[simp] theorem State.openHandshake_inputs (s : State) (v : Variant) (n : Fin 15) (k : Block) : (s.openHandshake v n k).inputs = s.inputs := rfl
@[simp] theorem State.openHandshake_result (s : State) (v : Variant) (n : Fin 15) (k : Block) : (s.openHandshake v n k).result = s.result := rfl
@[simp] theorem State.openHandshake_draws (s : State) (v : Variant) (n : Fin 15) (k : Block) : (s.openHandshake v n k).draws = s.draws := rfl
@[simp] theorem State.openHandshake_drawCount (s : State) (v : Variant) (n : Fin 15) (k : Block) : (s.openHandshake v n k).drawCount = s.drawCount := rfl

@[simp] theorem State.saveNonces_sesEncKey (s : State) (a b : Block) : (s.saveNonces a b).sesEncKey = s.sesEncKey := rfl
@[simp] theorem State.saveNonces_sesMacKey (s : State) (a b : Block) : (s.saveNonces a b).sesMacKey = s.sesMacKey := rfl
@[simp] theorem State.saveNonces_cmdCtr (s : State) (a b : Block) : (s.saveNonces a b).cmdCtr = s.cmdCtr := rfl
@[simp] theorem State.saveNonces_ti (s : State) (a b : Block) : (s.saveNonces a b).ti = s.ti := rfl
@[simp] theorem State.saveNonces_authFirst (s : State) (a b : Block) : (s.saveNonces a b).authFirst = s.authFirst := rfl
@[simp] theorem State.saveNonces_authNonFirst (s : State) (a b : Block) : (s.saveNonces a b).authNonFirst = s.authNonFirst := rfl
@[simp] theorem State.saveNonces_keyNo (s : State) (a b : Block) : (s.saveNonces a b).keyNo = s.keyNo := rfl
@[simp] theorem State.saveNonces_lastErr (s : State) (a b : Block) : (s.saveNonces a b).lastErr = s.lastErr := rfl
@[simp] theorem State.saveNonces_hsPhase (s : State) (a b : Block) : (s.saveNonces a b).hsPhase = .waitFinal := rfl
@[simp] theorem State.saveNonces_hsVariant (s : State) (a b : Block) : (s.saveNonces a b).hsVariant = s.hsVariant := rfl
@[simp] theorem State.saveNonces_hsKeyNo (s : State) (a b : Block) : (s.saveNonces a b).hsKeyNo = s.hsKeyNo := rfl
@[simp] theorem State.saveNonces_hsAuthKey (s : State) (a b : Block) : (s.saveNonces a b).hsAuthKey = s.hsAuthKey := rfl
@[simp] theorem State.saveNonces_hsRndA (s : State) (a b : Block) : (s.saveNonces a b).hsRndA = some a := rfl
@[simp] theorem State.saveNonces_hsRndB (s : State) (a b : Block) : (s.saveNonces a b).hsRndB = some b := rfl
@[simp] theorem State.saveNonces_inputs (s : State) (a b : Block) : (s.saveNonces a b).inputs = s.inputs := rfl
@[simp] theorem State.saveNonces_result (s : State) (a b : Block) : (s.saveNonces a b).result = s.result := rfl
@[simp] theorem State.saveNonces_draws (s : State) (a b : Block) : (s.saveNonces a b).draws = s.draws := rfl
@[simp] theorem State.saveNonces_drawCount (s : State) (a b : Block) : (s.saveNonces a b).drawCount = s.drawCount := rfl

@[simp] theorem State.commitFirst_sesEncKey (s : State) (ek mk : Block) (n : Fin 15) (t : Quad) : (s.commitFirst ek mk n t).sesEncKey = some ek := rfl
@[simp] theorem State.commitFirst_sesMacKey (s : State) (ek mk : Block) (n : Fin 15) (t : Quad) : (s.commitFirst ek mk n t).sesMacKey = some mk := rfl
@[simp] theorem State.commitFirst_cmdCtr (s : State) (ek mk : Block) (n : Fin 15) (t : Quad) : (s.commitFirst ek mk n t).cmdCtr = some 0 := rfl
@[simp] theorem State.commitFirst_ti (s : State) (ek mk : Block) (n : Fin 15) (t : Quad) : (s.commitFirst ek mk n t).ti = some t := rfl
@[simp] theorem State.commitFirst_authFirst (s : State) (ek mk : Block) (n : Fin 15) (t : Quad) : (s.commitFirst ek mk n t).authFirst = true := rfl
@[simp] theorem State.commitFirst_authNonFirst (s : State) (ek mk : Block) (n : Fin 15) (t : Quad) : (s.commitFirst ek mk n t).authNonFirst = false := rfl
@[simp] theorem State.commitFirst_keyNo (s : State) (ek mk : Block) (n : Fin 15) (t : Quad) : (s.commitFirst ek mk n t).keyNo = some n := rfl
@[simp] theorem State.commitFirst_lastErr (s : State) (ek mk : Block) (n : Fin 15) (t : Quad) : (s.commitFirst ek mk n t).lastErr = s.lastErr := rfl
@[simp] theorem State.commitFirst_hsPhase (s : State) (ek mk : Block) (n : Fin 15) (t : Quad) : (s.commitFirst ek mk n t).hsPhase = .idle := rfl
@[simp] theorem State.commitFirst_hsVariant (s : State) (ek mk : Block) (n : Fin 15) (t : Quad) : (s.commitFirst ek mk n t).hsVariant = none := rfl
@[simp] theorem State.commitFirst_hsKeyNo (s : State) (ek mk : Block) (n : Fin 15) (t : Quad) : (s.commitFirst ek mk n t).hsKeyNo = none := rfl
@[simp] theorem State.commitFirst_hsAuthKey (s : State) (ek mk : Block) (n : Fin 15) (t : Quad) : (s.commitFirst ek mk n t).hsAuthKey = none := rfl
@[simp] theorem State.commitFirst_hsRndA (s : State) (ek mk : Block) (n : Fin 15) (t : Quad) : (s.commitFirst ek mk n t).hsRndA = none := rfl
@[simp] theorem State.commitFirst_hsRndB (s : State) (ek mk : Block) (n : Fin 15) (t : Quad) : (s.commitFirst ek mk n t).hsRndB = none := rfl
@[simp] theorem State.commitFirst_inputs (s : State) (ek mk : Block) (n : Fin 15) (t : Quad) : (s.commitFirst ek mk n t).inputs = s.inputs := rfl
@[simp] theorem State.commitFirst_result (s : State) (ek mk : Block) (n : Fin 15) (t : Quad) : (s.commitFirst ek mk n t).result = s.result := rfl
@[simp] theorem State.commitFirst_draws (s : State) (ek mk : Block) (n : Fin 15) (t : Quad) : (s.commitFirst ek mk n t).draws = s.draws := rfl
@[simp] theorem State.commitFirst_drawCount (s : State) (ek mk : Block) (n : Fin 15) (t : Quad) : (s.commitFirst ek mk n t).drawCount = s.drawCount := rfl

@[simp] theorem State.commitNonFirst_sesEncKey (s : State) (ek mk : Block) (n : Fin 15) : (s.commitNonFirst ek mk n).sesEncKey = some ek := rfl
@[simp] theorem State.commitNonFirst_sesMacKey (s : State) (ek mk : Block) (n : Fin 15) : (s.commitNonFirst ek mk n).sesMacKey = some mk := rfl
@[simp] theorem State.commitNonFirst_cmdCtr (s : State) (ek mk : Block) (n : Fin 15) : (s.commitNonFirst ek mk n).cmdCtr = s.cmdCtr := rfl
@[simp] theorem State.commitNonFirst_ti (s : State) (ek mk : Block) (n : Fin 15) : (s.commitNonFirst ek mk n).ti = s.ti := rfl
@[simp] theorem State.commitNonFirst_authFirst (s : State) (ek mk : Block) (n : Fin 15) : (s.commitNonFirst ek mk n).authFirst = false := rfl
@[simp] theorem State.commitNonFirst_authNonFirst (s : State) (ek mk : Block) (n : Fin 15) : (s.commitNonFirst ek mk n).authNonFirst = true := rfl
@[simp] theorem State.commitNonFirst_keyNo (s : State) (ek mk : Block) (n : Fin 15) : (s.commitNonFirst ek mk n).keyNo = some n := rfl
@[simp] theorem State.commitNonFirst_lastErr (s : State) (ek mk : Block) (n : Fin 15) : (s.commitNonFirst ek mk n).lastErr = s.lastErr := rfl
@[simp] theorem State.commitNonFirst_hsPhase (s : State) (ek mk : Block) (n : Fin 15) : (s.commitNonFirst ek mk n).hsPhase = .idle := rfl
@[simp] theorem State.commitNonFirst_hsVariant (s : State) (ek mk : Block) (n : Fin 15) : (s.commitNonFirst ek mk n).hsVariant = none := rfl
@[simp] theorem State.commitNonFirst_hsKeyNo (s : State) (ek mk : Block) (n : Fin 15) : (s.commitNonFirst ek mk n).hsKeyNo = none := rfl
@[simp] theorem State.commitNonFirst_hsAuthKey (s : State) (ek mk : Block) (n : Fin 15) : (s.commitNonFirst ek mk n).hsAuthKey = none := rfl
@[simp] theorem State.commitNonFirst_hsRndA (s : State) (ek mk : Block) (n : Fin 15) : (s.commitNonFirst ek mk n).hsRndA = none := rfl
@[simp] theorem State.commitNonFirst_hsRndB (s : State) (ek mk : Block) (n : Fin 15) : (s.commitNonFirst ek mk n).hsRndB = none := rfl
@[simp] theorem State.commitNonFirst_inputs (s : State) (ek mk : Block) (n : Fin 15) : (s.commitNonFirst ek mk n).inputs = s.inputs := rfl
@[simp] theorem State.commitNonFirst_result (s : State) (ek mk : Block) (n : Fin 15) : (s.commitNonFirst ek mk n).result = s.result := rfl
@[simp] theorem State.commitNonFirst_draws (s : State) (ek mk : Block) (n : Fin 15) : (s.commitNonFirst ek mk n).draws = s.draws := rfl
@[simp] theorem State.commitNonFirst_drawCount (s : State) (ek mk : Block) (n : Fin 15) : (s.commitNonFirst ek mk n).drawCount = s.drawCount := rfl

@[simp] theorem State.deliver_sesEncKey (s : State) (r : Result) : (s.deliver r).sesEncKey = s.sesEncKey := rfl
@[simp] theorem State.deliver_sesMacKey (s : State) (r : Result) : (s.deliver r).sesMacKey = s.sesMacKey := rfl
@[simp] theorem State.deliver_cmdCtr (s : State) (r : Result) : (s.deliver r).cmdCtr = s.cmdCtr := rfl
@[simp] theorem State.deliver_ti (s : State) (r : Result) : (s.deliver r).ti = s.ti := rfl
@[simp] theorem State.deliver_authFirst (s : State) (r : Result) : (s.deliver r).authFirst = s.authFirst := rfl
@[simp] theorem State.deliver_authNonFirst (s : State) (r : Result) : (s.deliver r).authNonFirst = s.authNonFirst := rfl
@[simp] theorem State.deliver_keyNo (s : State) (r : Result) : (s.deliver r).keyNo = s.keyNo := rfl
@[simp] theorem State.deliver_lastErr (s : State) (r : Result) : (s.deliver r).lastErr = s.lastErr := rfl
@[simp] theorem State.deliver_hsPhase (s : State) (r : Result) : (s.deliver r).hsPhase = s.hsPhase := rfl
@[simp] theorem State.deliver_hsVariant (s : State) (r : Result) : (s.deliver r).hsVariant = s.hsVariant := rfl
@[simp] theorem State.deliver_hsKeyNo (s : State) (r : Result) : (s.deliver r).hsKeyNo = s.hsKeyNo := rfl
@[simp] theorem State.deliver_hsAuthKey (s : State) (r : Result) : (s.deliver r).hsAuthKey = s.hsAuthKey := rfl
@[simp] theorem State.deliver_hsRndA (s : State) (r : Result) : (s.deliver r).hsRndA = s.hsRndA := rfl
@[simp] theorem State.deliver_hsRndB (s : State) (r : Result) : (s.deliver r).hsRndB = s.hsRndB := rfl
@[simp] theorem State.deliver_inputs (s : State) (r : Result) : (s.deliver r).inputs = s.inputs := rfl
@[simp] theorem State.deliver_result (s : State) (r : Result) : (s.deliver r).result = some r := rfl
@[simp] theorem State.deliver_draws (s : State) (r : Result) : (s.deliver r).draws = s.draws := rfl
@[simp] theorem State.deliver_drawCount (s : State) (r : Result) : (s.deliver r).drawCount = s.drawCount := rfl

@[simp] theorem State.consumeDraw_sesEncKey (s : State) : s.consumeDraw.sesEncKey = s.sesEncKey := rfl
@[simp] theorem State.consumeDraw_sesMacKey (s : State) : s.consumeDraw.sesMacKey = s.sesMacKey := rfl
@[simp] theorem State.consumeDraw_cmdCtr (s : State) : s.consumeDraw.cmdCtr = s.cmdCtr := rfl
@[simp] theorem State.consumeDraw_ti (s : State) : s.consumeDraw.ti = s.ti := rfl
@[simp] theorem State.consumeDraw_authFirst (s : State) : s.consumeDraw.authFirst = s.authFirst := rfl
@[simp] theorem State.consumeDraw_authNonFirst (s : State) : s.consumeDraw.authNonFirst = s.authNonFirst := rfl
@[simp] theorem State.consumeDraw_keyNo (s : State) : s.consumeDraw.keyNo = s.keyNo := rfl
@[simp] theorem State.consumeDraw_lastErr (s : State) : s.consumeDraw.lastErr = s.lastErr := rfl
@[simp] theorem State.consumeDraw_hsPhase (s : State) : s.consumeDraw.hsPhase = s.hsPhase := rfl
@[simp] theorem State.consumeDraw_hsVariant (s : State) : s.consumeDraw.hsVariant = s.hsVariant := rfl
@[simp] theorem State.consumeDraw_hsKeyNo (s : State) : s.consumeDraw.hsKeyNo = s.hsKeyNo := rfl
@[simp] theorem State.consumeDraw_hsAuthKey (s : State) : s.consumeDraw.hsAuthKey = s.hsAuthKey := rfl
@[simp] theorem State.consumeDraw_hsRndA (s : State) : s.consumeDraw.hsRndA = s.hsRndA := rfl
@[simp] theorem State.consumeDraw_hsRndB (s : State) : s.consumeDraw.hsRndB = s.hsRndB := rfl
@[simp] theorem State.consumeDraw_inputs (s : State) : s.consumeDraw.inputs = s.inputs := rfl
@[simp] theorem State.consumeDraw_result (s : State) : s.consumeDraw.result = s.result := rfl
@[simp] theorem State.consumeDraw_draws (s : State) : s.consumeDraw.draws = s.draws.tail := rfl
@[simp] theorem State.consumeDraw_drawCount (s : State) : s.consumeDraw.drawCount = s.drawCount + 1 := rfl

@[simp] theorem State.withInputs_sesEncKey (s : State) (rest : List HostInput) : (s.withInputs rest).sesEncKey = s.sesEncKey := rfl
@[simp] theorem State.withInputs_sesMacKey (s : State) (rest : List HostInput) : (s.withInputs rest).sesMacKey = s.sesMacKey := rfl
@[simp] theorem State.withInputs_cmdCtr (s : State) (rest : List HostInput) : (s.withInputs rest).cmdCtr = s.cmdCtr := rfl
@[simp] theorem State.withInputs_ti (s : State) (rest : List HostInput) : (s.withInputs rest).ti = s.ti := rfl
@[simp] theorem State.withInputs_authFirst (s : State) (rest : List HostInput) : (s.withInputs rest).authFirst = s.authFirst := rfl
@[simp] theorem State.withInputs_authNonFirst (s : State) (rest : List HostInput) : (s.withInputs rest).authNonFirst = s.authNonFirst := rfl
@[simp] theorem State.withInputs_keyNo (s : State) (rest : List HostInput) : (s.withInputs rest).keyNo = s.keyNo := rfl
@[simp] theorem State.withInputs_lastErr (s : State) (rest : List HostInput) : (s.withInputs rest).lastErr = s.lastErr := rfl
@[simp] theorem State.withInputs_hsPhase (s : State) (rest : List HostInput) : (s.withInputs rest).hsPhase = s.hsPhase := rfl
@[simp] theorem State.withInputs_hsVariant (s : State) (rest : List HostInput) : (s.withInputs rest).hsVariant = s.hsVariant := rfl
@[simp] theorem State.withInputs_hsKeyNo (s : State) (rest : List HostInput) : (s.withInputs rest).hsKeyNo = s.hsKeyNo := rfl
@[simp] theorem State.withInputs_hsAuthKey (s : State) (rest : List HostInput) : (s.withInputs rest).hsAuthKey = s.hsAuthKey := rfl
@[simp] theorem State.withInputs_hsRndA (s : State) (rest : List HostInput) : (s.withInputs rest).hsRndA = s.hsRndA := rfl
@[simp] theorem State.withInputs_hsRndB (s : State) (rest : List HostInput) : (s.withInputs rest).hsRndB = s.hsRndB := rfl
@[simp] theorem State.withInputs_inputs (s : State) (rest : List HostInput) : (s.withInputs rest).inputs = rest := rfl
@[simp] theorem State.withInputs_result (s : State) (rest : List HostInput) : (s.withInputs rest).result = s.result := rfl
@[simp] theorem State.withInputs_draws (s : State) (rest : List HostInput) : (s.withInputs rest).draws = s.draws := rfl
@[simp] theorem State.withInputs_drawCount (s : State) (rest : List HostInput) : (s.withInputs rest).drawCount = s.drawCount := rfl

@[simp] theorem State.offer_sesEncKey (s : State) (d : Bytes) : (s.offer d).sesEncKey = s.sesEncKey := rfl
@[simp] theorem State.offer_sesMacKey (s : State) (d : Bytes) : (s.offer d).sesMacKey = s.sesMacKey := rfl
@[simp] theorem State.offer_cmdCtr (s : State) (d : Bytes) : (s.offer d).cmdCtr = s.cmdCtr := rfl
@[simp] theorem State.offer_ti (s : State) (d : Bytes) : (s.offer d).ti = s.ti := rfl
@[simp] theorem State.offer_authFirst (s : State) (d : Bytes) : (s.offer d).authFirst = s.authFirst := rfl
@[simp] theorem State.offer_authNonFirst (s : State) (d : Bytes) : (s.offer d).authNonFirst = s.authNonFirst := rfl
@[simp] theorem State.offer_keyNo (s : State) (d : Bytes) : (s.offer d).keyNo = s.keyNo := rfl
@[simp] theorem State.offer_lastErr (s : State) (d : Bytes) : (s.offer d).lastErr = s.lastErr := rfl
@[simp] theorem State.offer_hsPhase (s : State) (d : Bytes) : (s.offer d).hsPhase = s.hsPhase := rfl
@[simp] theorem State.offer_hsVariant (s : State) (d : Bytes) : (s.offer d).hsVariant = s.hsVariant := rfl
@[simp] theorem State.offer_hsKeyNo (s : State) (d : Bytes) : (s.offer d).hsKeyNo = s.hsKeyNo := rfl
@[simp] theorem State.offer_hsAuthKey (s : State) (d : Bytes) : (s.offer d).hsAuthKey = s.hsAuthKey := rfl
@[simp] theorem State.offer_hsRndA (s : State) (d : Bytes) : (s.offer d).hsRndA = s.hsRndA := rfl
@[simp] theorem State.offer_hsRndB (s : State) (d : Bytes) : (s.offer d).hsRndB = s.hsRndB := rfl
@[simp] theorem State.offer_inputs (s : State) (d : Bytes) : (s.offer d).inputs = .descriptor d :: s.inputs := rfl
@[simp] theorem State.offer_result (s : State) (d : Bytes) : (s.offer d).result = s.result := rfl
@[simp] theorem State.offer_draws (s : State) (d : Bytes) : (s.offer d).draws = s.draws := rfl
@[simp] theorem State.offer_drawCount (s : State) (d : Bytes) : (s.offer d).drawCount = s.drawCount := rfl

@[simp] theorem State.applyReset_sesEncKey (s : State) : s.applyReset.sesEncKey = none := rfl
@[simp] theorem State.applyReset_sesMacKey (s : State) : s.applyReset.sesMacKey = none := rfl
@[simp] theorem State.applyReset_cmdCtr (s : State) : s.applyReset.cmdCtr = none := rfl
@[simp] theorem State.applyReset_ti (s : State) : s.applyReset.ti = none := rfl
@[simp] theorem State.applyReset_authFirst (s : State) : s.applyReset.authFirst = false := rfl
@[simp] theorem State.applyReset_authNonFirst (s : State) : s.applyReset.authNonFirst = false := rfl
@[simp] theorem State.applyReset_keyNo (s : State) : s.applyReset.keyNo = none := rfl
@[simp] theorem State.applyReset_lastErr (s : State) : s.applyReset.lastErr = none := rfl
@[simp] theorem State.applyReset_hsPhase (s : State) : s.applyReset.hsPhase = .idle := rfl
@[simp] theorem State.applyReset_hsVariant (s : State) : s.applyReset.hsVariant = none := rfl
@[simp] theorem State.applyReset_hsKeyNo (s : State) : s.applyReset.hsKeyNo = none := rfl
@[simp] theorem State.applyReset_hsAuthKey (s : State) : s.applyReset.hsAuthKey = none := rfl
@[simp] theorem State.applyReset_hsRndA (s : State) : s.applyReset.hsRndA = none := rfl
@[simp] theorem State.applyReset_hsRndB (s : State) : s.applyReset.hsRndB = none := rfl
@[simp] theorem State.applyReset_inputs (s : State) : s.applyReset.inputs = s.inputs := rfl
@[simp] theorem State.applyReset_result (s : State) : s.applyReset.result = none := rfl
@[simp] theorem State.applyReset_draws (s : State) : s.applyReset.draws = s.draws := rfl
@[simp] theorem State.applyReset_drawCount (s : State) : s.applyReset.drawCount = s.drawCount := rfl

@[simp] theorem State.clearForStart_first (s : State) : s.clearForStart .first = s.clearSession := rfl

@[simp] theorem State.clearForStart_nonFirst (s : State) : s.clearForStart .nonFirst = s.clearForNonFirst := rfl

@[simp] theorem State.commitSession_first (s : State) (ek mk : Block) (n : Fin 15) (p : Bytes) :
    s.commitSession .first ek mk n p = s.commitFirst ek mk n (Quad.ofBytes (slice p 0 4)) := rfl

@[simp] theorem State.commitSession_nonFirst (s : State) (ek mk : Block) (n : Fin 15) (p : Bytes) :
    s.commitSession .nonFirst ek mk n p = s.commitNonFirst ek mk n := rfl

/-- Two records in a row: the later one stands. -/
@[simp] theorem State.deliver_deliver (s : State) (r q : Result) : (s.deliver r).deliver q = s.deliver q := rfl

/-- The full clear action twice is the full clear action once. -/
@[simp] theorem State.clearSession_clearSession (s : State) : s.clearSession.clearSession = s.clearSession := rfl

/-- Putting a descriptor in front and taking it off again changes nothing. -/
@[simp] theorem State.withInputs_offer (s : State) (d : Bytes) : (s.offer d).withInputs s.inputs = s := rfl

end Sys2Proof.Machine
end

