-- ==== Sys2Proof/Laws/Ops.lean ====
section
/-! SUPPORT. What each shared operation can do, said once: for the operations that take a continuation, what it answers on a
good operand, what on a bad one, and, when it answers a next state, which of the two it was. -/

namespace Sys2Proof.Machine

open Sys2Proof

/-! ### Ending an operation -/

@[simp] theorem finish_eq (outs : List Bytes) (s : State) : finish outs s = .next (s.deliver ⟨.ok, outs⟩) := rfl

@[simp] theorem raise_eq (c : ResultCode) (s : State) : raise c s = .next (s.deliver ⟨c, []⟩) := rfl

@[simp] theorem raiseStatus_eq (p : StatusPair) (s : State) :
    raiseStatus p s = .next (s.deliver ⟨.protocolStatus, [p.toBytes]⟩) := rfl

@[simp] theorem raisePrecondition_eq (s : State) :
    raisePrecondition s = .next ((s.setLastErr Config.precondErrcode).deliver ⟨.precondition, []⟩) := rfl

@[simp] theorem failHandshake_eq (c : ResultCode) (s : State) :
    failHandshake c s = .next (s.clearSession.deliver ⟨c, []⟩) := rfl

@[simp] theorem failHandshakeStatus_eq (p : StatusPair) (s : State) :
    failHandshakeStatus p s = .next (s.clearSession.deliver ⟨.protocolStatus, [p.toBytes]⟩) := rfl

/-! ### Reading a register -/

@[simp] theorem readReg_some {α : Type} (n : RegName) (v : α) (body : α → StepOutcome) :
    readReg n (some v) body = body v := rfl

@[simp] theorem readReg_none {α : Type} (n : RegName) (body : α → StepOutcome) :
    readReg n none body = .fault (.emptyRegister n) := rfl

/-- A register read that answers a next state found a value. -/
theorem readReg_next {α : Type} {n : RegName} {reg : Option α} {body : α → StepOutcome} {t : State}
    (h : readReg n reg body = .next t) : ∃ v, reg = some v ∧ body v = .next t := by
  cases reg with
  | none => simp at h
  | some v => exact ⟨v, rfl, h⟩

/-! ### The gate -/

theorem gated_open {s : State} (h : s.authenticated = true) (body : StepOutcome) : gated s body = body := by
  simp [gated, h]

theorem gated_closed {s : State} (h : s.authenticated = false) (body : StepOutcome) :
    gated s body = raisePrecondition s := by
  simp [gated, h]

/-- A gated operation that answers a next state ran its body, or was refused with PRECONDITION. -/
theorem gated_next {s t : State} {body : StepOutcome} (h : gated s body = .next t) :
    (s.authenticated = true ∧ body = .next t) ∨
      (s.authenticated = false ∧ t = (s.setLastErr Config.precondErrcode).deliver ⟨.precondition, []⟩) := by
  cases ha : s.authenticated with
  | true => rw [gated_open ha] at h; exact .inl ⟨rfl, h⟩
  | false => rw [gated_closed ha] at h; exact .inr ⟨rfl, by simpa using h.symm⟩

/-! ### Operand forms -/

@[simp] theorem withKey_toBytes (k : Block) (s : State) (body : Block → StepOutcome) :
    withKey k.toBytes s body = body k := by simp [withKey]

theorem withKey_of_length {f : Bytes} (h : f.length = 16) (s : State) (body : Block → StepOutcome) :
    withKey f s body = body (Block.ofBytes f) := by
  rw [eq_toBytes_of_length f h]; simp

theorem withKey_bad {f : Bytes} (h : f.length ≠ 16) (s : State) (body : Block → StepOutcome) :
    withKey f s body = raise .keyLength s := by
  simp [withKey, (Block.ofBytes?_eq_none_iff f).2 h]

theorem withKey_next {f : Bytes} {s t : State} {body : Block → StepOutcome} (h : withKey f s body = .next t) :
    (∃ k : Block, f = k.toBytes ∧ body k = .next t) ∨ (f.length ≠ 16 ∧ t = s.deliver ⟨.keyLength, []⟩) := by
  by_cases hl : f.length = 16
  · rw [withKey_of_length hl] at h
    exact .inl ⟨_, eq_toBytes_of_length f hl, h⟩
  · rw [withKey_bad hl] at h
    exact .inr ⟨hl, by simpa using h.symm⟩

@[simp] theorem withBlock_toBytes (k : Block) (s : State) (body : Block → StepOutcome) :
    withBlock k.toBytes s body = body k := by simp [withBlock]

theorem withBlock_of_length {f : Bytes} (h : f.length = 16) (s : State) (body : Block → StepOutcome) :
    withBlock f s body = body (Block.ofBytes f) := by
  rw [eq_toBytes_of_length f h]; simp

theorem withBlock_bad {f : Bytes} (h : f.length ≠ 16) (s : State) (body : Block → StepOutcome) :
    withBlock f s body = raise .operandLength s := by
  simp [withBlock, (Block.ofBytes?_eq_none_iff f).2 h]

theorem withBlock_next {f : Bytes} {s t : State} {body : Block → StepOutcome} (h : withBlock f s body = .next t) :
    (∃ k : Block, f = k.toBytes ∧ body k = .next t) ∨ (f.length ≠ 16 ∧ t = s.deliver ⟨.operandLength, []⟩) := by
  by_cases hl : f.length = 16
  · rw [withBlock_of_length hl] at h
    exact .inl ⟨_, eq_toBytes_of_length f hl, h⟩
  · rw [withBlock_bad hl] at h
    exact .inr ⟨hl, by simpa using h.symm⟩

theorem withCipherData_of_length {f : Bytes} (h : f.length % 16 = 0) (s : State) (body : Bytes → StepOutcome) :
    withCipherData f s body = body f := by simp [withCipherData, Config.blockLen, h]

theorem withCipherData_bad {f : Bytes} (h : f.length % 16 ≠ 0) (s : State) (body : Bytes → StepOutcome) :
    withCipherData f s body = raise .operandLength s := by simp [withCipherData, Config.blockLen, h]

theorem withCipherData_next {f : Bytes} {s t : State} {body : Bytes → StepOutcome}
    (h : withCipherData f s body = .next t) :
    (f.length % 16 = 0 ∧ body f = .next t) ∨ (f.length % 16 ≠ 0 ∧ t = s.deliver ⟨.operandLength, []⟩) := by
  by_cases hl : f.length % 16 = 0
  · rw [withCipherData_of_length hl] at h; exact .inl ⟨hl, h⟩
  · rw [withCipherData_bad hl] at h; exact .inr ⟨hl, by simpa using h.symm⟩

@[simp] theorem withByte_singleton (b : Byte) (s : State) (body : Byte → StepOutcome) :
    withByte [b] s body = body b := rfl

theorem withByte_bad {f : Bytes} (h : f.length ≠ 1) (s : State) (body : Byte → StepOutcome) :
    withByte f s body = raise .operandLength s := by
  match f, h with
  | [], _ => rfl
  | _ :: _ :: _, _ => rfl

theorem withByte_next {f : Bytes} {s t : State} {body : Byte → StepOutcome} (h : withByte f s body = .next t) :
    (∃ b, f = [b] ∧ body b = .next t) ∨ (f.length ≠ 1 ∧ t = s.deliver ⟨.operandLength, []⟩) := by
  by_cases hl : f.length = 1
  · obtain ⟨b, rfl⟩ := List.length_eq_one_iff.mp hl
    exact .inl ⟨b, rfl, h⟩
  · rw [withByte_bad hl] at h; exact .inr ⟨hl, by simpa using h.symm⟩

@[simp] theorem withPair_two (a b : Byte) (s : State) (body : StatusPair → StepOutcome) :
    withPair [a, b] s body = body ⟨a, b⟩ := rfl

@[simp] theorem withPair_toBytes (p : StatusPair) (s : State) (body : StatusPair → StepOutcome) :
    withPair p.toBytes s body = body p := rfl

theorem withPair_bad {f : Bytes} (h : f.length ≠ 2) (s : State) (body : StatusPair → StepOutcome) :
    withPair f s body = raise .operandLength s := by
  simp [withPair, (StatusPair.ofBytes?_eq_none_iff f).2 h]

theorem withPair_next {f : Bytes} {s t : State} {body : StatusPair → StepOutcome} (h : withPair f s body = .next t) :
    (∃ p : StatusPair, f = p.toBytes ∧ body p = .next t) ∨ (f.length ≠ 2 ∧ t = s.deliver ⟨.operandLength, []⟩) := by
  by_cases hl : f.length = 2
  · obtain ⟨a, b, rfl⟩ := List.length_eq_two.mp hl
    exact .inl ⟨⟨a, b⟩, rfl, h⟩
  · rw [withPair_bad hl] at h; exact .inr ⟨hl, by simpa using h.symm⟩

@[simp] theorem withVariant_zero (s : State) (body : Variant → StepOutcome) : withVariant 0x00 s body = body .first := rfl

@[simp] theorem withVariant_zero_lit (s : State) (body : Variant → StepOutcome) : withVariant 0#8 s body = body .first := rfl

@[simp] theorem withVariant_one (s : State) (body : Variant → StepOutcome) :
    withVariant 0x01 s body = body .nonFirst := rfl

@[simp] theorem withVariant_one_lit (s : State) (body : Variant → StepOutcome) : withVariant 1#8 s body = body .nonFirst := rfl

theorem withVariant_bad {b : Byte} (h : 0x01 < b) (s : State) (body : Variant → StepOutcome) :
    withVariant b s body = raise .badOperandValue s := by
  have h0 : b ≠ 0x00 := by rintro rfl; simp at h
  have h1 : b ≠ 0x01 := by rintro rfl; simp at h
  rw [withVariant, Variant.ofByte?, if_neg h0, if_neg h1]

theorem withVariant_next {b : Byte} {s t : State} {body : Variant → StepOutcome}
    (h : withVariant b s body = .next t) : (∃ v, body v = .next t) ∨ t = s.deliver ⟨.badOperandValue, []⟩ := by
  unfold withVariant at h
  split at h
  · exact .inl ⟨_, h⟩
  · exact .inr (by simpa using h.symm)

@[simp] theorem withMode_zero (s : State) (body : RespMode → StepOutcome) : withMode 0x00 s body = body .plain := rfl

@[simp] theorem withMode_zero_lit (s : State) (body : RespMode → StepOutcome) : withMode 0#8 s body = body .plain := rfl

@[simp] theorem withMode_one (s : State) (body : RespMode → StepOutcome) : withMode 0x01 s body = body .enciphered := rfl

@[simp] theorem withMode_one_lit (s : State) (body : RespMode → StepOutcome) : withMode 1#8 s body = body .enciphered := rfl

theorem withMode_bad {b : Byte} (h : 0x01 < b) (s : State) (body : RespMode → StepOutcome) :
    withMode b s body = raise .badOperandValue s := by
  have h0 : b ≠ 0x00 := by rintro rfl; simp at h
  have h1 : b ≠ 0x01 := by rintro rfl; simp at h
  rw [withMode, RespMode.ofByte?, if_neg h0, if_neg h1]

theorem withMode_next {b : Byte} {s t : State} {body : RespMode → StepOutcome}
    (h : withMode b s body = .next t) : (∃ m, body m = .next t) ∨ t = s.deliver ⟨.badOperandValue, []⟩ := by
  unfold withMode at h
  split at h
  · exact .inl ⟨_, h⟩
  · exact .inr (by simpa using h.symm)

/-- A byte from 0 to 14 is the key number it stands for. -/
theorem keyNo?_of_toNat {b : Byte} {n : Fin 15} (h : b.toNat = n.val) : keyNo? b = some n := by
  have hn : n.val ≤ 14 := by omega
  simp only [keyNo?, Config.keyNoMax, h, hn, if_true, Option.some.injEq]
  exact Fin.ext (by simp [Fin.ofNat])

/-- The byte of a key number read back from a byte is that byte. -/
theorem keyNoByte_of_toNat {b : Byte} {n : Fin 15} (h : b.toNat = n.val) : keyNoByte n = b := by
  apply BitVec.eq_of_toNat_eq
  simp only [keyNoByte, ← h, BitVec.ofNat_toNat, BitVec.setWidth_eq]

theorem withKeyNo_of_toNat {b : Byte} {n : Fin 15} (h : b.toNat = n.val) (s : State) (body : Fin 15 → StepOutcome) :
    withKeyNo b s body = body n := by simp [withKeyNo, keyNo?_of_toNat h]

theorem withKeyNo_bad {b : Byte} (h : 14 < b.toNat) (s : State) (body : Fin 15 → StepOutcome) :
    withKeyNo b s body = raise .badOperandValue s := by
  have : ¬ b.toNat ≤ 14 := by omega
  simp [withKeyNo, keyNo?, Config.keyNoMax, this]

theorem withKeyNo_next {b : Byte} {s t : State} {body : Fin 15 → StepOutcome}
    (h : withKeyNo b s body = .next t) : (∃ n, body n = .next t) ∨ t = s.deliver ⟨.badOperandValue, []⟩ := by
  unfold withKeyNo at h
  split at h
  · exact .inl ⟨_, h⟩
  · exact .inr (by simpa using h.symm)

/-! ### The step -/

@[simp] theorem step_idle {s : State} (h : s.inputs = []) : step s = .next s := by simp [step, takeInput, h]

@[simp] theorem step_offer (s : State) (d : Bytes) : step (s.offer d) = runDescriptor d s := rfl

theorem runDescriptor_of_decode {d : Bytes} {i : Instr} (h : decode d = .instr i) (s : State) :
    runDescriptor d s = exec i s := by simp [runDescriptor, h]

/-- One step does one of three things: it waits, it resets, or it runs a descriptor. -/
theorem step_cases (s : State) :
    (s.inputs = [] ∧ step s = .next s) ∨
    (∃ rest, s.inputs = .reset :: rest ∧ step s = .next (s.withInputs rest).applyReset) ∨
    (∃ d rest, s.inputs = .descriptor d :: rest ∧ step s = runDescriptor d (s.withInputs rest)) := by
  rcases h : s.inputs with _ | ⟨_ | _, rest⟩
  · exact .inl ⟨rfl, step_idle h⟩
  · exact .inr (.inr ⟨_, rest, rfl, by simp [step, takeInput, h]⟩)
  · exact .inr (.inl ⟨rest, rfl, by simp [step, takeInput, h]⟩)

/-- A descriptor runs the operation it decodes to, or ends with one of the two codes of decoding. -/
theorem runDescriptor_cases (d : Bytes) (s : State) :
    (∃ i, decode d = .instr i ∧ runDescriptor d s = exec i s) ∨
    (decode d = .illegalOp ∧ runDescriptor d s = .next (s.deliver ⟨.illegalOp, []⟩)) ∨
    (decode d = .badDescriptor ∧ runDescriptor d s = .next (s.deliver ⟨.badDescriptor, []⟩)) := by
  unfold runDescriptor
  cases decode d <;> simp

end Sys2Proof.Machine
end

