-- ==== Sys2Proof/Laws/Exec.lean ====
section
/-! SUPPORT. What each operation can do, said once: its form on operands that pass every test and, on any others, the one
programming-error code it raises in every state. -/

namespace Sys2Proof.Machine

open Sys2Proof

/-- An operation on operands that fail a test: one programming-error code, in every state, and nothing else changes. -/
def RaisesAlways (op : State → StepOutcome) : Prop :=
  ∃ c : ResultCode, c.ProgrammingError ∧ ∀ s, op s = .next (s.deliver ⟨c, []⟩)

/-- An operation that ends with the same record in every state, and nothing else changes. -/
def AnswersAlways (op : State → StepOutcome) : Prop :=
  ∃ r : Result, (r.rc = .ok ∨ (r.rc.ProgrammingError ∧ r.outs = [])) ∧ ∀ s, op s = .next (s.deliver r)

theorem answersAlways_finish (outs : List Bytes) : AnswersAlways (finish outs) := ⟨⟨.ok, outs⟩, .inl rfl, fun _ => rfl⟩

theorem answersAlways_raise (c : ResultCode) (h : c.ProgrammingError) : AnswersAlways (raise c) :=
  ⟨⟨c, []⟩, .inr ⟨h, rfl⟩, fun _ => rfl⟩

theorem raisesAlways_raise (c : ResultCode) (h : c.ProgrammingError) : RaisesAlways (raise c) := ⟨c, h, fun _ => rfl⟩

/-! ### The stateless operations -/

theorem answersAlways_withKey (f : Bytes) (body : Block → State → StepOutcome) (h : ∀ k, AnswersAlways (body k)) :
    AnswersAlways fun s => withKey f s fun k => body k s := by
  unfold withKey
  cases Block.ofBytes? f with
  | none => exact answersAlways_raise .keyLength (by decide)
  | some k => exact h k

theorem answersAlways_withBlock (f : Bytes) (body : Block → State → StepOutcome) (h : ∀ k, AnswersAlways (body k)) :
    AnswersAlways fun s => withBlock f s fun k => body k s := by
  unfold withBlock
  cases Block.ofBytes? f with
  | none => exact answersAlways_raise .operandLength (by decide)
  | some k => exact h k

theorem answersAlways_withCipherData (f : Bytes) (body : Bytes → State → StepOutcome) (h : ∀ k, AnswersAlways (body k)) :
    AnswersAlways fun s => withCipherData f s fun k => body k s := by
  unfold withCipherData
  by_cases hl : f.length % Config.blockLen = 0
  · simp only [hl, if_true]; exact h f
  · simp only [hl, if_false]; exact answersAlways_raise .operandLength (by decide)

theorem execCbcEnc_always (key iv data : Bytes) : AnswersAlways (execCbcEnc key iv data) :=
  answersAlways_withKey _ _ fun _ => answersAlways_withBlock _ _ fun _ =>
    answersAlways_withCipherData _ _ fun _ => answersAlways_finish _

theorem execCbcDec_always (key iv data : Bytes) : AnswersAlways (execCbcDec key iv data) :=
  answersAlways_withKey _ _ fun _ => answersAlways_withBlock _ _ fun _ =>
    answersAlways_withCipherData _ _ fun _ => answersAlways_finish _

theorem execCmacGen_always (key msg : Bytes) : AnswersAlways (execCmacGen key msg) :=
  answersAlways_withKey _ _ fun _ => answersAlways_finish _

theorem execMacTrunc_always (tag : Bytes) : AnswersAlways (execMacTrunc tag) :=
  answersAlways_withBlock _ _ fun _ => answersAlways_finish _

theorem execKdfSes_always (authKey randA randB : Bytes) : AnswersAlways (execKdfSes authKey randA randB) :=
  answersAlways_withKey _ _ fun _ => answersAlways_withBlock _ _ fun _ =>
    answersAlways_withBlock _ _ fun _ => answersAlways_finish _

theorem execPadM2_always (data : Bytes) : AnswersAlways (execPadM2 data) := by
  unfold execPadM2
  by_cases h : data.length > Config.maxPadInput
  · simp only [h, if_true]; exact answersAlways_raise .operandLength (by decide)
  · simp only [h, if_false]; exact answersAlways_finish _

/-! ### The operations on the registers, on operands that pass their tests -/

theorem execSsSeterr_form (code : Bytes) :
    RaisesAlways (execSsSeterr code) ∨
      ∃ p : StatusPair, code = p.toBytes ∧ ∀ s, execSsSeterr code s = finish [] (s.setLastErr p) := by
  by_cases h : code.length = 2
  · obtain ⟨a, b, rfl⟩ := List.length_eq_two.mp h
    exact .inr ⟨⟨a, b⟩, rfl, fun _ => rfl⟩
  · exact .inl ⟨.operandLength, by decide, fun s => by simp [execSsSeterr, withPair_bad h]⟩

theorem execAuthStart_form (variant keyNo authKey : Bytes) :
    RaisesAlways (execAuthStart variant keyNo authKey) ∨
      ∃ (v : Variant) (n : Fin 15) (k : Block), ∀ s, execAuthStart variant keyNo authKey s =
        if v = .nonFirst ∧ s.hasPriorFirst = false then raisePrecondition s
        else finish [startParam v n] ((s.clearForStart v).openHandshake v n k) := by
  by_cases h1 : variant.length = 1
  · obtain ⟨vb, rfl⟩ := List.length_eq_one_iff.mp h1
    by_cases h2 : keyNo.length = 1
    · obtain ⟨nb, rfl⟩ := List.length_eq_one_iff.mp h2
      by_cases h3 : authKey.length = 16
      · cases hv : Variant.ofByte? vb with
        | none =>
          exact .inl ⟨.badOperandValue, by decide, fun s => by simp [execAuthStart, withKey_of_length h3, withVariant, hv]⟩
        | some v =>
          cases hn : keyNo? nb with
          | none =>
            exact .inl ⟨.badOperandValue, by decide,
              fun s => by simp [execAuthStart, withKey_of_length h3, withVariant, hv, withKeyNo, hn]⟩
          | some n =>
            exact .inr ⟨v, n, Block.ofBytes authKey,
              fun s => by simp only [execAuthStart, withByte_singleton, withKey_of_length h3, withVariant, hv, withKeyNo, hn]⟩
      · exact .inl ⟨.keyLength, by decide, fun s => by simp [execAuthStart, withKey_bad h3]⟩
    · exact .inl ⟨.operandLength, by decide, fun s => by simp [execAuthStart, withByte_bad h2]⟩
  · exact .inl ⟨.operandLength, by decide, fun s => by simp [execAuthStart, withByte_bad h1]⟩

/-- AUTH.CHAL answers a next state in one of four ways: out of turn, the wrong pair, the wrong length, or OK. -/
theorem execAuthChal_form (status body : Bytes) :
    RaisesAlways (execAuthChal status body) ∨
      ∃ st : StatusPair, status = st.toBytes ∧ ∀ s t, execAuthChal status body s = .next t →
        (s.hsPhase ≠ .waitRndB ∧ t = (s.setLastErr Config.precondErrcode).deliver ⟨.precondition, []⟩) ∨
        (s.hsPhase = .waitRndB ∧ ∃ r : Result, r.rc ≠ .ok ∧ ¬r.rc.ProgrammingError ∧
          ((r.rc = .protocolStatus ∧ r.outs = [st.toBytes]) ∨ (r.rc = .malformedResponse ∧ r.outs = [])) ∧
          (∀ u : State, u.hsPhase = .waitRndB →
            execAuthChal status body u = .next ((u.setLastErr st).clearSession.deliver r)) ∧
          t = (s.setLastErr st).clearSession.deliver r) ∨
        (s.hsPhase = .waitRndB ∧ ∃ k, s.hsAuthKey = some k ∧
          let randB := Block.ofBytes (cbcDec Block.zero k body)
          t = (((s.setLastErr st).consumeDraw).saveNonces s.nextDraw randB).deliver
            ⟨.ok, [secondMessage k s.nextDraw randB]⟩) := by
  by_cases h : status.length = 2
  · obtain ⟨a, b, rfl⟩ := List.length_eq_two.mp h
    refine .inr ⟨⟨a, b⟩, rfl, fun s t ht => ?_⟩
    by_cases hp : s.hsPhase = .waitRndB
    · refine .inr ?_
      by_cases hst : (⟨a, b⟩ : StatusPair) = Config.statusMoreData
      · by_cases hl : body.length = 16
        · refine .inr ⟨hp, ?_⟩
          simp only [execAuthChal, withPair_two, hp, hst, Config.blockLen, hl, ne_eq, not_true, if_false] at ht
          obtain ⟨k, hk, ht⟩ := readReg_next ht
          exact ⟨k, hk, by simpa [hst] using ht.symm⟩
        · have key : ∀ u : State, u.hsPhase = .waitRndB → execAuthChal [a, b] body u =
              .next ((u.setLastErr ⟨a, b⟩).clearSession.deliver ⟨.malformedResponse, []⟩) := by
            intro u hu
            simp [execAuthChal, hu, hst, Config.blockLen, hl]
          refine .inl ⟨hp, ⟨.malformedResponse, []⟩, by simp, by simp, by simp, key, ?_⟩
          rw [key s hp] at ht; simpa using ht.symm
      · have key : ∀ u : State, u.hsPhase = .waitRndB → execAuthChal [a, b] body u =
            .next ((u.setLastErr ⟨a, b⟩).clearSession.deliver ⟨.protocolStatus, [[a, b]]⟩) := by
          intro u hu
          simp [execAuthChal, hu, hst, StatusPair.toBytes]
        refine .inl ⟨hp, ⟨.protocolStatus, [[a, b]]⟩, by simp, by simp, .inl ⟨rfl, rfl⟩, key, ?_⟩
        rw [key s hp] at ht; simpa using ht.symm
    · exact .inl ⟨hp, by simpa [execAuthChal, hp] using ht.symm⟩
  · exact .inl ⟨.operandLength, by decide, fun s => by simp [execAuthChal, withPair_bad h]⟩

/-- AUTH.FIN answers a next state in one of three ways: out of turn, a failure that clears, or the commit. -/
theorem execAuthFin_form (status body : Bytes) :
    RaisesAlways (execAuthFin status body) ∨
      ∃ st : StatusPair, status = st.toBytes ∧ ∀ s t, execAuthFin status body s = .next t →
        (s.hsPhase ≠ .waitFinal ∧ t = (s.setLastErr Config.precondErrcode).deliver ⟨.precondition, []⟩) ∨
        (s.hsPhase = .waitFinal ∧ ∃ r : Result, r.rc ≠ .ok ∧ ¬r.rc.ProgrammingError ∧
          ((r.rc = .protocolStatus ∧ r.outs = [st.toBytes]) ∨ (r.rc ≠ .protocolStatus ∧ r.outs = [])) ∧
          t = (s.setLastErr st).clearSession.deliver r) ∨
        (s.hsPhase = .waitFinal ∧ ∃ v n ek mk plain, s.hsVariant = some v ∧ s.hsKeyNo = some n ∧
          t = ((s.setLastErr st).commitSession v ek mk n plain).deliver ⟨.ok, [receivedCaps v plain]⟩) := by
  by_cases h : status.length = 2
  · obtain ⟨a, b, rfl⟩ := List.length_eq_two.mp h
    refine .inr ⟨⟨a, b⟩, rfl, fun s t ht => ?_⟩
    by_cases hp : s.hsPhase = .waitFinal
    · refine .inr ?_
      simp only [execAuthFin, withPair_two, hp, ne_eq, not_true, if_false] at ht
      split at ht
      · refine .inl ⟨hp, ⟨.protocolStatus, [[a, b]]⟩, by simp, by simp, .inl ⟨rfl, rfl⟩, ?_⟩
        simpa [StatusPair.toBytes] using ht.symm
      · obtain ⟨v, hv, ht⟩ := readReg_next ht
        split at ht
        · exact .inl ⟨hp, ⟨.malformedResponse, []⟩, by simp, by simp, by simp, by simpa using ht.symm⟩
        · obtain ⟨k, _, ht⟩ := readReg_next ht
          obtain ⟨randA, _, ht⟩ := readReg_next ht
          split at ht
          · exact .inl ⟨hp, ⟨.authFailed, []⟩, by simp, by simp, by simp, by simpa using ht.symm⟩
          · obtain ⟨randB, _, ht⟩ := readReg_next ht
            obtain ⟨n, hn, ht⟩ := readReg_next ht
            exact .inr ⟨hp, v, n, _, _, _, hv, hn, by simpa using ht.symm⟩
    · exact .inl ⟨hp, by simpa [execAuthFin, hp] using ht.symm⟩
  · exact .inl ⟨.operandLength, by decide, fun s => by simp [execAuthFin, withPair_bad h]⟩

/-! ### The secured operations -/

/-- A secured operation that changes no register: refused at the closed gate, or OK with one output field. -/
theorem execSmIvc_next {s t : State} (h : execSmIvc s = .next t) :
    (s.authenticated = false ∧ t = (s.setLastErr Config.precondErrcode).deliver ⟨.precondition, []⟩) ∨
      (s.authenticated = true ∧ ∃ out, t = s.deliver ⟨.ok, [out]⟩) := by
  rcases gated_next h with ⟨ha, h⟩ | h
  · obtain ⟨_, _, h⟩ := readReg_next h
    obtain ⟨_, _, h⟩ := readReg_next h
    obtain ⟨_, _, h⟩ := readReg_next h
    exact .inr ⟨ha, _, by simpa using h.symm⟩
  · exact .inl h

theorem execSmIvr_next {s t : State} (h : execSmIvr s = .next t) :
    (s.authenticated = false ∧ t = (s.setLastErr Config.precondErrcode).deliver ⟨.precondition, []⟩) ∨
      (s.authenticated = true ∧ ∃ out, t = s.deliver ⟨.ok, [out]⟩) := by
  rcases gated_next h with ⟨ha, h⟩ | h
  · obtain ⟨_, _, h⟩ := readReg_next h
    obtain ⟨_, _, h⟩ := readReg_next h
    obtain ⟨_, _, h⟩ := readReg_next h
    exact .inr ⟨ha, _, by simpa using h.symm⟩
  · exact .inl h

theorem execSmCmd_form (cmdCode header plaintext : Bytes) :
    RaisesAlways (execSmCmd cmdCode header plaintext) ∨
      ∀ s t, execSmCmd cmdCode header plaintext s = .next t →
        (s.authenticated = false ∧ t = (s.setLastErr Config.precondErrcode).deliver ⟨.precondition, []⟩) ∨
          (s.authenticated = true ∧ ∃ out, t = s.deliver ⟨.ok, [out]⟩) := by
  by_cases h1 : cmdCode.length = 1
  · obtain ⟨cc, rfl⟩ := List.length_eq_one_iff.mp h1
    by_cases h2 : plaintext.length % 16 = 0
    · by_cases h3 : header.length + plaintext.length + Config.macLen > Config.maxField
      · exact .inl ⟨.operandLength, by decide, fun s => by simp [execSmCmd, withCipherData_of_length h2, h3]⟩
      · refine .inr fun s t h => ?_
        simp only [execSmCmd, withByte_singleton, withCipherData_of_length h2, h3, if_false] at h
        rcases gated_next h with ⟨ha, h⟩ | h
        · obtain ⟨_, _, h⟩ := readReg_next h
          obtain ⟨_, _, h⟩ := readReg_next h
          obtain ⟨_, _, h⟩ := readReg_next h
          obtain ⟨_, _, h⟩ := readReg_next h
          exact .inr ⟨ha, _, by simpa using h.symm⟩
        · exact .inl h
    · exact .inl ⟨.operandLength, by decide, fun s => by simp [execSmCmd, withCipherData_bad h2]⟩
  · exact .inl ⟨.operandLength, by decide, fun s => by simp [execSmCmd, withByte_bad h1]⟩

/-- SM.RSP past the increment: whatever the outcome, only the record is still to come. -/
theorem verifyResponse_next {m : RespMode} {body : Bytes} {n : BitVec 16} {s t : State}
    (h : verifyResponse m body n s = .next t) :
    ∃ r : Result, (r.rc = .ok ∨ ((r.rc = .malformedResponse ∨ r.rc = .responseMacFailed) ∧ r.outs = [])) ∧
      t = s.deliver r := by
  unfold verifyResponse at h
  split at h
  · exact ⟨⟨.malformedResponse, []⟩, by simp, by simpa using h.symm⟩
  · obtain ⟨_, _, h⟩ := readReg_next h
    obtain ⟨_, _, h⟩ := readReg_next h
    split at h
    · exact ⟨⟨.responseMacFailed, []⟩, by simp, by simpa using h.symm⟩
    · cases m with
      | plain => exact ⟨⟨.ok, _⟩, by simp, by simpa using h.symm⟩
      | enciphered =>
        obtain ⟨_, _, h⟩ := readReg_next h
        exact ⟨⟨.ok, _⟩, by simp, by simpa using h.symm⟩

/-- SM.RSP answers a next state in one of four ways: the closed gate, a status that is no success, the last counter value, or
the counter one more. -/
theorem execSmRsp_form (mode status body : Bytes) :
    RaisesAlways (execSmRsp mode status body) ∨
      ∃ st : StatusPair, status = st.toBytes ∧ ∀ s t, execSmRsp mode status body s = .next t →
        (s.authenticated = false ∧ t = (s.setLastErr Config.precondErrcode).deliver ⟨.precondition, []⟩) ∨
        (s.authenticated = true ∧ t = (s.setLastErr st).deliver ⟨.protocolStatus, [st.toBytes]⟩) ∨
        (s.authenticated = true ∧ s.cmdCtr = some Config.lastCounter ∧
          t = (s.setLastErr st).clearSession.deliver ⟨.counterExhausted, []⟩) ∨
        (s.authenticated = true ∧ ∃ c r, s.cmdCtr = some c ∧ c ≠ Config.lastCounter ∧
          (r.rc = .ok ∨ ((r.rc = .malformedResponse ∨ r.rc = .responseMacFailed) ∧ r.outs = [])) ∧
          t = ((s.setLastErr st).setCmdCtr (c + 1)).deliver r) := by
  by_cases h1 : mode.length = 1
  · obtain ⟨mb, rfl⟩ := List.length_eq_one_iff.mp h1
    by_cases h2 : status.length = 2
    · obtain ⟨a, b, rfl⟩ := List.length_eq_two.mp h2
      cases hm : RespMode.ofByte? mb with
      | none => exact .inl ⟨.badOperandValue, by decide, fun s => by simp [execSmRsp, withMode, hm]⟩
      | some m =>
        refine .inr ⟨⟨a, b⟩, rfl, fun s t h => ?_⟩
        simp only [execSmRsp, withByte_singleton, withPair_two, withMode, hm] at h
        rcases gated_next h with ⟨ha, h⟩ | h
        · refine .inr ?_
          split at h
          · exact .inl ⟨ha, by simpa [StatusPair.toBytes] using h.symm⟩
          · obtain ⟨c, hc, h⟩ := readReg_next h
            split at h
            · rename_i hl
              exact .inr (.inl ⟨ha, by rw [hc, hl], by simpa using h.symm⟩)
            · rename_i hl
              obtain ⟨r, hr, rfl⟩ := verifyResponse_next h
              exact .inr (.inr ⟨ha, c, r, hc, hl, hr, rfl⟩)
        · exact .inl h
    · exact .inl ⟨.operandLength, by decide, fun s => by simp [execSmRsp, withPair_bad h2]⟩
  · exact .inl ⟨.operandLength, by decide, fun s => by simp [execSmRsp, withByte_bad h1]⟩

end Sys2Proof.Machine
end

