-- ==== Sys2Proof/Laws/Host.lean ====
section
/-! SUPPORT. What each operation of the host's side can do, said once: splitting a reply, an exchange, an operation issued. -/

namespace Sys2Proof.Machine

open Sys2Proof

/-- A reply splits into its body and the status pair at its end. -/
theorem splitStatus?_append_pair (body : Bytes) (e0 e1 : Byte) :
    splitStatus? (body ++ [e0, e1]) = some (body, [e0, e1]) := by
  have h : (body ++ [e0, e1]).length = body.length + 2 := by simp
  unfold splitStatus? slice
  rw [if_neg (by omega), List.take_length, h]
  simp

/-- A connectivity error and a reply of fewer than 2 bytes carry no status pair. -/
theorem bind_splitStatus?_eq_none {reply : Option Bytes} (h : ∀ r, reply = some r → r.length < 2) :
    reply.bind splitStatus? = none := by
  cases reply with
  | none => rfl
  | some r => simp [splitStatus?, h r rfl]

/-- Data of at most 255 bytes fits the envelope. -/
theorem wrap?_of_length {cmdCode : Byte} {data : Bytes} (h : data.length ≤ 255) :
    wrap? cmdCode data = some (wrap cmdCode data) := if_pos h

/-- An exchange that is cut after its envelope was sent. -/
theorem exchange_lost {cmdCode : Byte} {data : Bytes} {reply : Option Bytes} {sent : List Bytes} {s : State}
    {lost : List Bytes → HostOutcome} {body : Bytes → Bytes → List Bytes → HostOutcome} (h : data.length ≤ 255)
    (hr : ∀ r, reply = some r → r.length < 2) :
    exchange cmdCode data reply sent s lost body = lost (sent ++ [wrap cmdCode data]) := by
  simp only [exchange, wrap?_of_length h, bind_splitStatus?_eq_none hr]

/-- An exchange that brings a reply with its status pair. -/
theorem exchange_reply {cmdCode : Byte} {data replyBody : Bytes} {e0 e1 : Byte} {sent : List Bytes} {s : State}
    {lost : List Bytes → HostOutcome} {body : Bytes → Bytes → List Bytes → HostOutcome} (h : data.length ≤ 255) :
    exchange cmdCode data (some (replyBody ++ [e0, e1])) sent s lost body =
      body replyBody [e0, e1] (sent ++ [wrap cmdCode data]) := by
  simp only [exchange, wrap?_of_length h, Option.bind, splitStatus?_append_pair]

/-- Data that does not fit the envelope is not sent, and the engine stays as it is (log 8). -/
theorem exchange_tooLong {cmdCode : Byte} {data : Bytes} {reply : Option Bytes} {sent : List Bytes} {s : State}
    {lost : List Bytes → HostOutcome} {body : Bytes → Bytes → List Bytes → HostOutcome} (h : 255 < data.length) :
    exchange cmdCode data reply sent s lost body = .next ⟨.tooLong, sent, s⟩ := by
  have hn : wrap? cmdCode data = none := if_neg (by omega)
  simp only [exchange, hn]

/-- An operation issued that the engine answers with a record. -/
theorem issueOp_next {i : Instr} {sent : List Bytes} {s t : State} {r : Result} {body : Result → State → HostOutcome}
    (hw : i.WellFormed) (e : step (s.offer (encode i)) = .next t) (hr : t.result = some r) :
    issueOp i sent s body = body r t := by
  simp only [issueOp, if_pos hw, e, hr]

/-- An operation issued that the engine answers with OK. -/
theorem issueOk_next {i : Instr} {sent : List Bytes} {s t : State} {out : Bytes} {body : Bytes → State → HostOutcome}
    (hw : i.WellFormed) (e : step (s.offer (encode i)) = .next t) (hr : t.result = some ⟨.ok, [out]⟩) :
    issueOk i sent s body = body out t :=
  issueOp_next hw e hr

/-- An operation whose operands fit no field is not issued, and the engine stays as it is (log 8). -/
theorem issueOp_tooLong {i : Instr} {sent : List Bytes} {s : State} {body : Result → State → HostOutcome}
    (hw : ¬ i.WellFormed) : issueOp i sent s body = .next ⟨.tooLong, sent, s⟩ := if_neg hw

end Sys2Proof.Machine
end

