-- ==== Sys2Proof/Laws/PerInstr.lean ====
section
/-! SUPPORT. Statements about every operation as syntax, one lemma per constructor. -/

namespace Sys2Proof.Laws.OperandsAssemble

open Sys2Proof

/-- The operation's code finds its own row of the operation map, with as many fields as the operation has operands, and the
operands in descriptor order assemble to the operation again (R78, R79). -/
def Statement (i : Instr) : Prop :=
  opcodeRow? i.opcode.code = some ⟨i.opcode.code, i.opcode, i.operands.length⟩ ∧ assemble i.opcode i.operands = some i

theorem cbcEnc (key iv data : Bytes) : Statement (.cbcEnc key iv data) := ⟨rfl, rfl⟩
theorem cbcDec (key iv data : Bytes) : Statement (.cbcDec key iv data) := ⟨rfl, rfl⟩
theorem cmacGen (key msg : Bytes) : Statement (.cmacGen key msg) := ⟨rfl, rfl⟩
theorem macTrunc (tag : Bytes) : Statement (.macTrunc tag) := ⟨rfl, rfl⟩
theorem kdfSes (authKey randA randB : Bytes) : Statement (.kdfSes authKey randA randB) := ⟨rfl, rfl⟩
theorem padM2 (data : Bytes) : Statement (.padM2 data) := ⟨rfl, rfl⟩
theorem ssClear : Statement .ssClear := ⟨rfl, rfl⟩
theorem ssStatus : Statement .ssStatus := ⟨rfl, rfl⟩
theorem ssSeterr (code : Bytes) : Statement (.ssSeterr code) := ⟨rfl, rfl⟩
theorem authStart (variant keyNo authKey : Bytes) : Statement (.authStart variant keyNo authKey) := ⟨rfl, rfl⟩
theorem authChal (status body : Bytes) : Statement (.authChal status body) := ⟨rfl, rfl⟩
theorem authFin (status body : Bytes) : Statement (.authFin status body) := ⟨rfl, rfl⟩
theorem smIvc : Statement .smIvc := ⟨rfl, rfl⟩
theorem smIvr : Statement .smIvr := ⟨rfl, rfl⟩
theorem smCmd (cmdCode header plaintext : Bytes) : Statement (.smCmd cmdCode header plaintext) := ⟨rfl, rfl⟩
theorem smRsp (mode status body : Bytes) : Statement (.smRsp mode status body) := ⟨rfl, rfl⟩

end Sys2Proof.Laws.OperandsAssemble
end

