-- ==== Sys2Proof/Machine/Assembler.lean ====
section
/-! DEFINITION. The textual form of operations and results and the pseudo-operations (30_encoding.md R82, R83), for reading
and writing examples (log 11). -/

namespace Sys2Proof.Machine

open Sys2Proof

/-- The pseudo-operations, each one real operation (R83). -/
inductive Pseudo where
  /-- `ECB.ENC key=K block=B`. -/
  | ecbEnc (key block : Bytes)
  /-- `AUTH.FIRST keyNo=N authKey=K`. -/
  | authFirst (keyNo authKey : Bytes)
  /-- `AUTH.NONFIRST keyNo=N authKey=K`. -/
  | authNonFirst (keyNo authKey : Bytes)
  /-- `SM.MACONLY cmdCode=C header=H`. -/
  | smMacOnly (cmdCode header : Bytes)
  /-- `SM.ACK status=S body=B`. -/
  | smAck (status body : Bytes)
  deriving DecidableEq, Repr

/-- The expansion of a pseudo-operation; ECB.ENC stands only for a 16-byte block (R83). -/
def Pseudo.expand : Pseudo → Option Instr
  | .ecbEnc key block => if block.length = Config.blockLen then some (.cbcEnc key (zeros 16) block) else none
  | .authFirst keyNo authKey => some (.authStart [0x00] keyNo authKey)
  | .authNonFirst keyNo authKey => some (.authStart [0x01] keyNo authKey)
  | .smMacOnly cmdCode header => some (.smCmd cmdCode header [])
  | .smAck status body => some (.smRsp [0x00] status body)

/-- The mnemonic of an operation (R78). -/
def Opcode.mnemonic : Opcode → String
  | .cbcEnc => "CBC.ENC" | .cbcDec => "CBC.DEC" | .cmacGen => "CMAC.GEN" | .macTrunc => "MAC.TRUNC"
  | .kdfSes => "KDF.SES" | .padM2 => "PAD.M2"
  | .ssClear => "SS.CLEAR" | .ssStatus => "SS.STATUS" | .ssSeterr => "SS.SETERR"
  | .authStart => "AUTH.START" | .authChal => "AUTH.CHAL" | .authFin => "AUTH.FIN"
  | .smIvc => "SM.IVC" | .smIvr => "SM.IVR" | .smCmd => "SM.CMD" | .smRsp => "SM.RSP"

/-- The operand names of an operation, in descriptor order (R79). -/
def Opcode.operandNames : Opcode → List String
  | .cbcEnc => ["key", "iv", "data"]
  | .cbcDec => ["key", "iv", "data"]
  | .cmacGen => ["key", "msg"]
  | .macTrunc => ["tag"]
  | .kdfSes => ["authKey", "randA", "randB"]
  | .padM2 => ["data"]
  | .ssClear => []
  | .ssStatus => []
  | .ssSeterr => ["code"]
  | .authStart => ["variant", "keyNo", "authKey"]
  | .authChal => ["status", "body"]
  | .authFin => ["status", "body"]
  | .smIvc => []
  | .smIvr => []
  | .smCmd => ["cmdCode", "header", "plaintext"]
  | .smRsp => ["mode", "status", "body"]

/-- The output names of an operation's OK result, in result order (R79). -/
def Opcode.outputNames : Opcode → List String
  | .cbcEnc => ["ct"]
  | .cbcDec => ["pt"]
  | .cmacGen => ["tag"]
  | .macTrunc => ["mac"]
  | .kdfSes => ["encKey", "macKey"]
  | .padM2 => ["padded"]
  | .ssClear => []
  | .ssStatus => ["status"]
  | .ssSeterr => []
  | .authStart => ["param"]
  | .authChal => ["msg2"]
  | .authFin => ["caps"]
  | .smIvc => ["iv"]
  | .smIvr => ["iv"]
  | .smCmd => ["data"]
  | .smRsp => ["rdata"]

/-- The name of a result code (R260). -/
def ResultCode.name : ResultCode → String
  | .ok => "OK" | .illegalOp => "ILLEGAL_OP" | .badDescriptor => "BAD_DESCRIPTOR" | .keyLength => "KEY_LENGTH"
  | .operandLength => "OPERAND_LENGTH" | .badOperandValue => "BAD_OPERAND_VALUE" | .precondition => "PRECONDITION"
  | .protocolStatus => "PROTOCOL_STATUS" | .malformedResponse => "MALFORMED_RESPONSE" | .authFailed => "AUTH_FAILED"
  | .responseMacFailed => "RESPONSE_MAC_FAILED" | .counterExhausted => "COUNTER_EXHAUSTED"

/-- One hexadecimal digit, in capitals (R10). -/
def hexDigit (n : Nat) : String := (["0", "1", "2", "3", "4", "5", "6", "7", "8", "9", "A", "B", "C", "D", "E", "F"]).getD n "0"

/-- A byte string in hexadecimal, first byte first; an empty one is `-` (R10, R82). -/
def hexText (b : Bytes) : String :=
  if b = [] then "-" else String.join (b.map fun x => hexDigit (x.toNat / 16) ++ hexDigit (x.toNat % 16))

/-- `name=HEX name=HEX ...`, each after two spaces (R82). -/
def fieldsText (names : List String) (values : List Bytes) : String :=
  String.join (List.zipWith (fun n v => "  " ++ n ++ "=" ++ hexText v) names values)

/-- The line of an operation (R82). -/
def Instr.text (i : Instr) : String :=
  Opcode.mnemonic i.opcode ++ fieldsText (Opcode.operandNames i.opcode) i.operands

/-- The line of an operation with the draw it consumes, `draw=HEX` after the operands (R82). -/
def Instr.textWithDraw (i : Instr) (draw : Block) : String := Instr.text i ++ fieldsText ["draw"] [draw.toBytes]

/-- The result of an operation as a line (R82). -/
def Result.text (op : Opcode) (r : Result) : String :=
  "-> " ++ r.rc.name ++
    fieldsText (if r.rc = .protocolStatus then ["status"] else Opcode.outputNames op) r.outs

end Sys2Proof.Machine
end

