-- ==== Sys2Proof/Tests/Slice0.lean ====
section
/-! SUPPORT. The model's own tests: the descriptors of spec/30_encoding.md written out by hand, the vectors of
spec/95_test_vectors.md as single steps, the smoke test of WellFormed, and for every obligation with hypotheses a concrete
state and operands that meet them. -/

namespace Sys2Proof.Tests

open Sys2Proof Sys2Proof.Machine

set_option Elab.async false

/-! ## Helpers -/

/-- The hexadecimal digits of the spec as a byte string, first byte first (R10). -/
def hex (n v : Nat) : Bytes := (littleEndian n v).reverse

/-- A 16-byte string of the spec as a block. -/
def hexBlock (v : Nat) : Block := Block.ofBytes (hex 16 v)

/-- The result record on the result path as bytes, after a step (R75). -/
def recordOf (o : StepOutcome) : Option Bytes :=
  match o with
  | .next t => t.result.map Result.toBytes
  | .fault _ => none
  | .refused _ => none

/-- The 11 bytes SS.STATUS would return after a step (R158). -/
def statusOf (o : StepOutcome) : Option Bytes :=
  match o with
  | .next t => some (statusBytes t)
  | .fault _ => none
  | .refused _ => none

/-- The state after a step. -/
def after (o : StepOutcome) : State :=
  match o with
  | .next t => t
  | .fault _ => State.reset
  | .refused _ => State.reset

/-- The example session of 95_test_vectors.md at a counter value. -/
def session (c : BitVec 16) : State :=
  { State.reset with
    sesEncKey := some (hexBlock 0x63DC07286289A7A6C0334CA31C314A04),
    sesMacKey := some (hexBlock 0x774F26743ECE6AF5033B6AE8522946F6),
    cmdCtr := some c, ti := some ⟨0xCD, 0x73, 0xD8, 0xE5⟩, authFirst := true, keyNo := some 0, lastErr := some ⟨0x91, 0x00⟩ }

/-- P1 after step 3: the First handshake is open; the random source will deliver T3's randA. -/
def waitRndB : State :=
  { State.reset with
    hsPhase := .waitRndB, hsVariant := some .first, hsKeyNo := some 0, hsAuthKey := some Block.zero,
    draws := [hexBlock 0xB04D0787C93EE0CC8CACC8E86F16C6FE] }

/-- A handshake of T3's nonces that waits for the final reply, of either variant. -/
def waitFinal (v : Variant) : State :=
  { State.reset with
    hsPhase := .waitFinal, hsVariant := some v, hsKeyNo := some 0, hsAuthKey := some Block.zero,
    hsRndA := some (hexBlock 0xB04D0787C93EE0CC8CACC8E86F16C6FE),
    hsRndB := some (hexBlock 0xFA659AD0DCA738DD65DC7DC38612AD81), lastErr := some ⟨0x91, 0xAF⟩ }

/-- A string one byte too long for a field. -/
def tooLong : Bytes := zeros 65536

theorem tooLong_length : tooLong.length = 65536 := zeros_length _

theorem longest_length : (zeros 65535).length = 65535 := zeros_length _

/-! ## WellFormed: the one check, on every operand of every operation (R72) -/

theorem test_illFormed_cbc (a b : Bytes) :
    ¬ Instr.WellFormed (.cbcEnc tooLong a b) ∧ ¬ Instr.WellFormed (.cbcEnc a tooLong b) ∧
    ¬ Instr.WellFormed (.cbcEnc a b tooLong) ∧ ¬ Instr.WellFormed (.cbcDec tooLong a b) ∧
    ¬ Instr.WellFormed (.cbcDec a tooLong b) ∧ ¬ Instr.WellFormed (.cbcDec a b tooLong) := by
  simp [Instr.WellFormed, Instr.operands, Config.maxField, tooLong_length]

theorem test_illFormed_stateless (a b : Bytes) :
    ¬ Instr.WellFormed (.cmacGen tooLong a) ∧ ¬ Instr.WellFormed (.cmacGen a tooLong) ∧
    ¬ Instr.WellFormed (.macTrunc tooLong) ∧ ¬ Instr.WellFormed (.kdfSes tooLong a b) ∧
    ¬ Instr.WellFormed (.kdfSes a tooLong b) ∧ ¬ Instr.WellFormed (.kdfSes a b tooLong) ∧
    ¬ Instr.WellFormed (.padM2 tooLong) ∧ ¬ Instr.WellFormed (.ssSeterr tooLong) := by
  simp [Instr.WellFormed, Instr.operands, Config.maxField, tooLong_length]

theorem test_illFormed_auth (a b : Bytes) :
    ¬ Instr.WellFormed (.authStart tooLong a b) ∧ ¬ Instr.WellFormed (.authStart a tooLong b) ∧
    ¬ Instr.WellFormed (.authStart a b tooLong) ∧ ¬ Instr.WellFormed (.authChal tooLong a) ∧
    ¬ Instr.WellFormed (.authChal a tooLong) ∧ ¬ Instr.WellFormed (.authFin tooLong a) ∧
    ¬ Instr.WellFormed (.authFin a tooLong) := by
  simp [Instr.WellFormed, Instr.operands, Config.maxField, tooLong_length]

theorem test_illFormed_codec (a b : Bytes) :
    ¬ Instr.WellFormed (.smCmd tooLong a b) ∧ ¬ Instr.WellFormed (.smCmd a tooLong b) ∧
    ¬ Instr.WellFormed (.smCmd a b tooLong) ∧ ¬ Instr.WellFormed (.smRsp tooLong a b) ∧
    ¬ Instr.WellFormed (.smRsp a tooLong b) ∧ ¬ Instr.WellFormed (.smRsp a b tooLong) := by
  simp [Instr.WellFormed, Instr.operands, Config.maxField, tooLong_length]

/-! ## Decode: one descriptor per operation, written out from R70, R72, R78, R79 -/

theorem test_decode_cbcEnc : decode [0x01, 0x01, 0x00, 0xA1, 0x02, 0x00, 0xB1, 0xB2, 0x03, 0x00, 0xC1, 0xC2, 0xC3] =
    .instr (.cbcEnc [0xA1] [0xB1, 0xB2] [0xC1, 0xC2, 0xC3]) := by decide

theorem test_decode_cbcDec : decode [0x02, 0x01, 0x00, 0xA1, 0x02, 0x00, 0xB1, 0xB2, 0x03, 0x00, 0xC1, 0xC2, 0xC3] =
    .instr (.cbcDec [0xA1] [0xB1, 0xB2] [0xC1, 0xC2, 0xC3]) := by decide

theorem test_decode_cmacGen : decode [0x03, 0x02, 0x00, 0xA1, 0xA2, 0x00, 0x00] = .instr (.cmacGen [0xA1, 0xA2] []) := by
  decide

theorem test_decode_macTrunc : decode [0x04, 0x02, 0x00, 0xA1, 0xA2] = .instr (.macTrunc [0xA1, 0xA2]) := by decide

theorem test_decode_kdfSes : decode [0x05, 0x01, 0x00, 0xA1, 0x00, 0x00, 0x02, 0x00, 0xC1, 0xC2] =
    .instr (.kdfSes [0xA1] [] [0xC1, 0xC2]) := by decide

/-- V22: `desc 06 0100 44`. -/
theorem test_decode_padM2 : decode [0x06, 0x01, 0x00, 0x44] = .instr (.padM2 [0x44]) := by decide

theorem test_decode_ssClear : decode [0x10] = .instr .ssClear := by decide

theorem test_decode_ssStatus : decode [0x11] = .instr .ssStatus := by decide

/-- V23: `desc 12 0200 6F00`. -/
theorem test_decode_ssSeterr : decode [0x12, 0x02, 0x00, 0x6F, 0x00] = .instr (.ssSeterr [0x6F, 0x00]) := by decide

theorem test_decode_authStart : decode [0x20, 0x01, 0x00, 0x01, 0x01, 0x00, 0x0E, 0x02, 0x00, 0xA1, 0xA2] =
    .instr (.authStart [0x01] [0x0E] [0xA1, 0xA2]) := by decide

theorem test_decode_authChal : decode [0x21, 0x02, 0x00, 0x91, 0xAF, 0x01, 0x00, 0x24] =
    .instr (.authChal [0x91, 0xAF] [0x24]) := by decide

theorem test_decode_authFin : decode [0x22, 0x02, 0x00, 0x91, 0x00, 0x00, 0x00] =
    .instr (.authFin [0x91, 0x00] []) := by decide

theorem test_decode_smIvc : decode [0x30] = .instr .smIvc := by decide

theorem test_decode_smIvr : decode [0x31] = .instr .smIvr := by decide

/-- V33 (c): `desc 32 0100 C7 0100 00 0000`. -/
theorem test_decode_smCmd : decode [0x32, 0x01, 0x00, 0xC7, 0x01, 0x00, 0x00, 0x00, 0x00] =
    .instr (.smCmd [0xC7] [0x00] []) := by decide

/-- V34 (j): `desc 33 0100 00 0200 91AE 0000`. -/
theorem test_decode_smRsp : decode [0x33, 0x01, 0x00, 0x00, 0x02, 0x00, 0x91, 0xAE, 0x00, 0x00] =
    .instr (.smRsp [0x00] [0x91, 0xAE] []) := by decide

/-- The high byte of the length prefix counts 256 each (R72). -/
theorem test_decode_long_field : decode ([0x06, 0x01, 0x01] ++ zeros 257) = .instr (.padM2 (zeros 257)) := by
  decide +kernel

/-- V50: the codes next to the defined ones are illegal, at both ends of every range of R80. -/
theorem test_decode_illegal : ([0x00, 0x07, 0x0F, 0x13, 0x1F, 0x23, 0x2F, 0x34, 0xFF] : Bytes).all
    (fun c => decode [c] = .illegalOp ∧ decode [c, 0x10] = .illegalOp) = true := by decide

/-- V50: the malformed descriptors. -/
theorem test_decode_malformed :
    ([[], [0x01, 0x10], [0x01, 0x10, 0x00], [0x04, 0x10], [0x04, 0x11, 0x00] ++ zeros 16, [0x04, 0x10, 0x00] ++ zeros 17,
      [0x10, 0x00], [0x11, 0x00, 0x00], [0x30, 0x00, 0x00], [0x12, 0x02, 0x00, 0x6F], [0x06]] : List Bytes).all
    (fun d => decode d = .badDescriptor) = true := by decide

/-- A table word of one byte: the code alone, every field empty. -/
theorem test_tableWord_short : decodeTableWord 8 0x32 = some (.smCmd [] [] []) ∧ decodeTableWord 8 0x11 = some .ssStatus ∧
    decodeTableWord 8 0x34 = none := by decide

/-- A table word with a length prefix: the field is that many zero bytes. -/
theorem test_tableWord_prefixed : decodeTableWord 24 0x000204 = some (.macTrunc [0x00, 0x00]) := by decide

/-- The placed word is the very next descriptor. -/
theorem test_withFetchWord : recordOf (step (State.reset.withFetchWord 24 0x000006)) = some ([0x00, 0x10, 0x00, 0x80] ++ zeros 15) := by
  decide +kernel

/-! ## One step per test; expected values from spec/95_test_vectors.md -/

/-- V1 (FIPS 197, C.1). -/
theorem test_cbcEnc_V1 : recordOf (exec (.cbcEnc (hex 16 0x000102030405060708090A0B0C0D0E0F) (zeros 16)
      (hex 16 0x00112233445566778899AABBCCDDEEFF)) State.reset) =
    some ([0x00, 0x10, 0x00] ++ hex 16 0x69C4E0D86A7B0430D8CDB78070B4C55A) := by decide +kernel

/-- V6: chaining makes equal plaintext blocks different. -/
theorem test_cbcEnc_V6 : recordOf (exec (.cbcEnc (zeros 16) (zeros 16) (List.replicate 32 0x22)) State.reset) =
    some ([0x00, 0x20, 0x00] ++ hex 16 0x6C9B42E8357788C5627B8C8DA65399F5 ++ hex 16 0x3ED0D2F145E2347565FA202B9F678977) := by
  decide +kernel

/-- V2, second line. -/
theorem test_cbcDec_V2 : recordOf (exec (.cbcDec (zeros 16) (zeros 16) (zeros 16)) State.reset) =
    some ([0x00, 0x10, 0x00] ++ hex 16 0x140F0F1011B5223D79587717FFD9EC3A) := by decide +kernel

/-- V3 read backwards (V4), its first two blocks, under a non-zero IV. -/
theorem test_cbcDec_V4 : recordOf (exec (.cbcDec (hex 16 0x2B7E151628AED2A6ABF7158809CF4F3C)
      (hex 16 0x000102030405060708090A0B0C0D0E0F)
      (hex 32 0x7649ABAC8119B246CEE98E9B12E9197D5086CB9B507219EE95DB113A917678B2)) State.reset) =
    some ([0x00, 0x20, 0x00] ++ hex 32 0x6BC1BEE22E409F96E93D7E117393172AAE2D8A571E03AC9C9EB76FAC45AF8E51) := by
  decide +kernel

/-- V10: the empty message. -/
theorem test_cmacGen_V10 : recordOf (exec (.cmacGen (hex 16 0x2B7E151628AED2A6ABF7158809CF4F3C) []) State.reset) =
    some ([0x00, 0x10, 0x00] ++ hex 16 0xBB1D6929E95937287FA37D129B756746) := by decide +kernel

/-- V15: 17 bytes, a full block and a partial one. -/
theorem test_cmacGen_V15 : recordOf (exec (.cmacGen (zeros 16) (hex 17 0x000102030405060708090A0B0C0D0E0F10)) State.reset) =
    some ([0x00, 0x10, 0x00] ++ hex 16 0x779E2A04A8AF903241317F1C508E9AE4) := by decide +kernel

/-- V16: the bytes at odd indices. -/
theorem test_macTrunc_V16 : recordOf (exec (.macTrunc (hex 16 0x000102030405060708090A0B0C0D0E0F)) State.reset) =
    some ([0x00, 0x08, 0x00] ++ hex 8 0x01030507090B0D0F) := by decide +kernel

/-- V17: 15 bytes. -/
theorem test_macTrunc_V17 : recordOf (exec (.macTrunc (zeros 15)) State.reset) = some [0x04] := by decide +kernel

/-- T3: the document's own vector. -/
theorem test_kdfSes_T3 : recordOf (exec (.kdfSes (zeros 16) (hex 16 0xB04D0787C93EE0CC8CACC8E86F16C6FE)
      (hex 16 0xFA659AD0DCA738DD65DC7DC38612AD81)) State.reset) =
    some ([0x00, 0x10, 0x00] ++ hex 16 0x63DC07286289A7A6C0334CA31C314A04
      ++ [0x10, 0x00] ++ hex 16 0x774F26743ECE6AF5033B6AE8522946F6) := by decide +kernel

/-- V20, last two lines: which length is tested first, and its code. -/
theorem test_kdfSes_V20 : recordOf (exec (.kdfSes (zeros 8) (zeros 15) (zeros 16)) State.reset) = some [0x03] ∧
    recordOf (exec (.kdfSes (zeros 16) (zeros 15) (zeros 16)) State.reset) = some [0x04] := by decide +kernel

/-- V22: 15 bytes take one byte of padding. -/
theorem test_padM2_15 : recordOf (exec (.padM2 (List.replicate 15 0x33)) State.reset) =
    some ([0x00, 0x10, 0x00] ++ List.replicate 15 0x33 ++ [0x80]) := by decide +kernel

/-- V22: a whole block takes a block of padding. -/
theorem test_padM2_16 : recordOf (exec (.padM2 (List.replicate 16 0x11)) State.reset) =
    some ([0x00, 0x20, 0x00] ++ List.replicate 16 0x11 ++ [0x80] ++ zeros 15) := by decide +kernel

/-- V23: SS.CLEAR on the example session keeps LASTERR. -/
theorem test_ssClear_V23 : statusOf (exec .ssClear (session 1)) = some (hex 11 0x4000000000000000009100) := by decide +kernel

/-- V23, V30: SS.STATUS of the example session at counter 1. -/
theorem test_ssStatus_V23 : recordOf (exec .ssStatus (session 1)) =
    some ([0x00, 0x0B, 0x00] ++ hex 11 0x7D00000100CD73D8E59100) := by decide +kernel

/-- P3 step 1: the status of a NonFirst handshake. -/
theorem test_ssStatus_P3 : recordOf (exec .ssStatus
      (after (exec (.authStart [0x01] [0x01] (hex 16 0x000102030405060708090A0B0C0D0E0F)) (session 2)))) =
    some ([0x00, 0x0B, 0x00] ++ hex 11 0x5801000200CD73D8E59100) := by decide +kernel

/-- V23: SS.SETERR from reset. -/
theorem test_ssSeterr_V23 : statusOf (exec (.ssSeterr [0x6F, 0x00]) State.reset) = some (hex 11 0x4000000000000000006F00) ∧
    recordOf (exec (.ssSeterr [0x6F]) State.reset) = some [0x04] := by decide +kernel

/-- P4 step 4: a First start over a live session clears it at once. -/
theorem test_authStart_P4 : recordOf (exec (.authStart [0x00] [0x02] (zeros 16)) (session 4)) = some [0x00, 0x02, 0x00, 0x02, 0x00] ∧
    statusOf (exec (.authStart [0x00] [0x02] (zeros 16)) (session 4)) = some (hex 11 0x4001000000000000009100) := by
  decide +kernel

/-- V40: lengths before values, values before the precondition. -/
theorem test_authStart_V40 : recordOf (exec (.authStart [0x01] [0x0F] (zeros 15)) State.reset) = some [0x03] ∧
    recordOf (exec (.authStart [0x01] [0x0F] (zeros 16)) State.reset) = some [0x05] ∧
    recordOf (exec (.authStart [0x01] [0x00] (zeros 16)) State.reset) = some [0x06] := by decide +kernel

/-- P1 step 4: the second message, with the draw given. -/
theorem test_authChal_P1 : recordOf (exec (.authChal [0x91, 0xAF] (hex 16 0x24677DDBD46349E623798FD729006E79)) waitRndB) =
    some ([0x00, 0x20, 0x00] ++ hex 32 0x3B50445F21D21D77D500794DEB245E5A754F5F901844259F4C9B31A5C7335ACD) := by
  decide +kernel

/-- V42: a success status is a failure in the first reply. -/
theorem test_authChal_V42 : recordOf (exec (.authChal [0x91, 0x00] (zeros 16)) waitRndB) = some [0x07, 0x02, 0x00, 0x91, 0x00] ∧
    statusOf (exec (.authChal [0x91, 0x00] (zeros 16)) waitRndB) = some (hex 11 0x4000000000000000009100) := by
  decide +kernel

/-- V45: the capability bytes are passed through, and the session is the example session. -/
theorem test_authFin_V45 :
    let o := exec (.authFin [0x91, 0x00]
      (hex 32 0x614684BF121A545EFC926D7B22461DA5BD8E564743786A297F093C71B769E2C4)) (waitFinal .first)
    recordOf o = some ([0x00, 0x0C, 0x00] ++ hex 12 0x0102030405060708090A0B0C) ∧
      (after o).sesMacKey = (session 0).sesMacKey ∧ statusOf o = some (hex 11 0x7D00000000CD73D8E59100) := by decide +kernel

/-- V44: a NonFirst reply that is not rotated. -/
theorem test_authFin_V44 : recordOf (exec (.authFin [0x91, 0x00] (hex 16 0x3B50445F21D21D77D500794DEB245E5A))
      (waitFinal .nonFirst)) = some [0x09] := by decide +kernel

/-- V31: the counter's low byte first. -/
theorem test_smIvc_V31 : recordOf (exec .smIvc (session 256)) =
    some ([0x00, 0x10, 0x00] ++ hex 16 0x882FD79762FE363F9346DF63A8BAB4B1) := by decide +kernel

/-- V31: the other flag opens the gate too. -/
theorem test_smIvc_nonFirst : recordOf (exec .smIvc { session 5 with authFirst := false, authNonFirst := true }) =
    some ([0x00, 0x10, 0x00] ++ hex 16 0x8E4FF2F0A3576F43FA9831704F883110) := by decide +kernel

/-- V32. -/
theorem test_smIvr_V32 : recordOf (exec .smIvr (session 1)) =
    some ([0x00, 0x10, 0x00] ++ hex 16 0x00731B8D9286C103B87FD465A995C882) := by decide +kernel

/-- V36: the gate. -/
theorem test_smIvr_V36 : recordOf (exec .smIvr State.reset) = some [0x06] := by decide +kernel

/-- V33 (b). -/
theorem test_smCmd_V33b : recordOf (exec (.smCmd [0x8D] (hex 7 0x00000000100000) (List.replicate 16 0x11 ++ [0x80] ++ zeros 15))
      (session 0)) =
    some ([0x00, 0x2F, 0x00] ++ hex 7 0x00000000100000 ++ hex 16 0xFD9E763A988C0F007D83CE7DD741610A
      ++ hex 16 0xC935690ED34ADF2A279BE5BFBA67EF98 ++ hex 8 0x26B57CF3D0543F90) := by decide +kernel

/-- V33 (d): the counter enters the MAC. -/
theorem test_smCmd_V33d : recordOf (exec (.smCmd [0xC7] [0x00] []) (session 1)) =
    some ([0x00, 0x09, 0x00, 0x00] ++ hex 8 0xBD8CBEDC6BD2E002) := by decide +kernel

/-- V34 (c): enciphered response data. -/
theorem test_smRsp_V34c :
    let o := exec (.smRsp [0x01] [0x91, 0x00] (hex 24 0xD11914A4326EBF02749AB5A221A84379B4834C5B1367554D)) (session 0)
    recordOf o = some ([0x00, 0x10, 0x00] ++ hex 16 0x04112233445566800000000000000000) ∧ (after o).cmdCtr = some 1 := by
  decide +kernel

/-- V34 (e): the MAC of the counter before the increment is wrong, and the counter has moved. -/
theorem test_smRsp_V34e :
    let o := exec (.smRsp [0x00] [0x91, 0x00] (hex 8 0x25DD010D476E5645)) (session 0)
    recordOf o = some [0x0A] ∧ (after o).cmdCtr = some 1 := by decide +kernel

/-- The header of R247's worked example, and one whose bytes tell the order apart (R12, R245, by hand). -/
theorem test_file_header : fileHeader 0x00 0 25 = [0x00, 0x00, 0x00, 0x00, 0x19, 0x00, 0x00] ∧
    fileHeader 0x03 0xFF0201 0xFFFFFF = [0x03, 0x01, 0x02, 0xFF, 0xFF, 0xFF, 0xFF] := by decide

/-- V60: the envelope, and a reply that is a status pair alone. -/
theorem test_envelope_V60 : wrap? 0x51 (hex 8 0x8D492E8BE7144036) = some (hex 14 0x90510000088D492E8BE714403600) ∧
    wrap? 0xAD [] = some [0x90, 0xAD, 0x00, 0x00, 0x00, 0x00] ∧ splitStatus? [0x91, 0xAE] = some ([], [0x91, 0xAE]) ∧
    splitStatus? [0x91] = none := by decide +kernel

/-- R83: ECB.ENC stands for CBC.ENC under the zero IV. -/
theorem test_pseudo : (Pseudo.ecbEnc (zeros 16) (zeros 16)).expand = some (.cbcEnc (zeros 16) (zeros 16) (zeros 16)) := by
  decide +kernel

/-! ## Witnesses: for every obligation with hypotheses, a state and operands that meet them -/

/-- The longest field and the empty one. -/
theorem test_witness_DecodeInvertsEncode :
    Instr.WellFormed (.macTrunc (zeros 65535)) ∧ Instr.WellFormed (.smRsp [0x00] [0x91, 0x00] []) := by
  simp [Instr.WellFormed, Instr.operands, Config.maxField, longest_length]

theorem test_witness_EncodeInvertsDecode : decode [0x12, 0x02, 0x00, 0x6F, 0x00] = .instr (.ssSeterr [0x6F, 0x00]) :=
  test_decode_ssSeterr

/-- Both ends of every range of illegal codes, and their legal neighbours. -/
theorem test_witness_IllegalCodesRefused :
    (0x00 : Byte) = 0x00 ∧ ((0x07 : Byte) ≤ 0x07 ∧ (0x0F : Byte) ≤ 0x0F) ∧ ((0x13 : Byte) ≤ 0x13 ∧ (0x1F : Byte) ≤ 0x1F) ∧
    ((0x23 : Byte) ≤ 0x23 ∧ (0x2F : Byte) ≤ 0x2F) ∧ (0x34 : Byte) ≤ 0x34 ∧ (0x34 : Byte) ≤ 0xFF ∧
    ([0x01, 0x06, 0x10, 0x12, 0x20, 0x22, 0x30, 0x33] : Bytes).all (fun c => decode [c] ≠ .illegalOp) = true := by decide

theorem test_witness_MalformedDescriptorsRefused :
    Instr.WellFormed (.ssSeterr [0x6F, 0x00]) ∧ 0 < 1 ∧ 1 < (encode (.ssSeterr [0x6F, 0x00])).length ∧
      4 < (encode (.ssSeterr [0x6F, 0x00])).length ∧ Instr.WellFormed .ssStatus := by decide

theorem test_witness_StepRunsDecodedOperation :
    (State.reset.offer [0x11]).inputs = .descriptor [0x11] :: [] ∧ decode [0x11] = .instr .ssStatus ∧
      Instr.WellFormed .ssStatus := by decide

theorem test_witness_StepWithoutInputWaits : State.reset.inputs = [] := by decide

theorem test_witness_ResetInputClearsEveryRegister :
    ((session 7).withInputs [.reset, .descriptor [0x11]]).inputs = .reset :: [.descriptor [0x11]] := by decide

theorem test_witness_CbcChainsOnCiphertext : 0 < [Block.zero, Block.zero].length ∧ 1 < [Block.zero, Block.zero].length := by
  decide

theorem test_witness_CbcChainsByParts :
    (zeros 16).length % 16 = 0 ∧ ([] : Bytes).length % 16 = 0 ∧ (zeros 32).length % 16 = 0 ∧ 16 ≤ (zeros 16).length := by
  decide

/-- Whole blocks, and no data at all. -/
theorem test_witness_CbcOperationsRoundTrip :
    (zeros 16).length = 16 ∧ (zeros 48).length % 16 = 0 ∧ ([] : Bytes).length % 16 = 0 := by decide

theorem test_witness_CbcOperationsComplete :
    (zeros 16).length = 16 ∧ (zeros 16).length % 16 = 0 ∧ ([] : Bytes).length % 16 = 0 := by decide

/-- The empty message, and a message that ends one byte short of a block. -/
theorem test_witness_CmacIsLastCbcBlock :
    (([] : Bytes).length < 16 ∧ (([] : Bytes) = [] → ([] : List Block) = [])) ∧
    ((zeros 15).length < 16 ∧ (zeros 15 = [] → [Block.zero] = [])) := by decide

theorem test_witness_CmacGenCompletes : (zeros 16).length = 16 := by decide

theorem test_witness_MacTruncTakesOddBytes : (zeros 16).length = 16 ∧ 0 < 8 ∧ 7 < 8 := by decide

theorem test_witness_KdfSesCompletes :
    (zeros 16).length = 16 ∧ (hex 16 0xB04D0787C93EE0CC8CACC8E86F16C6FE).length = 16 := by decide

/-- The longest data that is padded and the shortest that is not. -/
theorem test_witness_PadM2Completes : (zeros 65519).length ≤ 65519 ∧ 65519 < (zeros 65520).length := by simp [zeros_length]

theorem test_witness_PrimitivesRefuseWrongLengths :
    (zeros 15).length ≠ 16 ∧ (zeros 17).length ≠ 16 ∧ (zeros 16).length = 16 ∧ (zeros 15).length % 16 ≠ 0 ∧
      (zeros 17).length % 16 ≠ 0 := by decide

/-- Every register valid, every register empty, and the three phases. -/
theorem test_witness_SsStatusLayout :
    (session 65535).keyNo = some 0 ∧ (session 65535).cmdCtr = some 65535 ∧ (session 0).ti = some ⟨0xCD, 0x73, 0xD8, 0xE5⟩ ∧
    (session 0).lastErr = some ⟨0x91, 0x00⟩ ∧ State.reset.keyNo = none ∧ State.reset.cmdCtr = none ∧ State.reset.ti = none ∧
    State.reset.lastErr = none ∧ State.reset.hsPhase = .idle ∧ waitRndB.hsPhase = .waitRndB ∧
    (waitFinal .first).hsPhase = .waitFinal := by decide

theorem test_witness_SsSeterrCompletes : ([0x6F, 0x00] : Bytes) = [0x6F, 0x00] ∧ ([0x6F] : Bytes).length ≠ 2 ∧
    ([] : Bytes).length ≠ 2 := by decide

/-- The lowest and the highest key number. -/
theorem test_witness_AuthStartFirstCompletes :
    (0x00 : Byte).toNat = (0 : Fin 15).val ∧ (0x0E : Byte).toNat = (14 : Fin 15).val ∧ (zeros 16).length = 16 := by decide

theorem test_witness_AuthStartNonFirstCompletes :
    (0x0E : Byte).toNat = (14 : Fin 15).val ∧ (zeros 16).length = 16 ∧ (session 2).cmdCtr.isSome = true ∧
      (session 2).ti.isSome = true ∧ State.reset.cmdCtr = none ∧ State.reset.ti = none := by decide

theorem test_witness_AuthStartRefusesBadOperands :
    ([0x00, 0x00] : Bytes).length ≠ 1 ∧ ([] : Bytes).length ≠ 1 ∧ ([0x01] : Bytes).length = 1 ∧ (zeros 15).length ≠ 16 ∧
      (zeros 16).length = 16 ∧ (0x01 : Byte) < 0x02 ∧ (0x0E : Byte) < 0x0F ∧ (0x0E : Byte) < 0xFF := by decide

theorem test_witness_AuthChalCompletes :
    waitRndB.hsPhase = .waitRndB ∧ waitRndB.hsAuthKey = some Block.zero ∧
      (hex 16 0x24677DDBD46349E623798FD729006E79).length = 16 ∧
      waitRndB.draws = hexBlock 0xB04D0787C93EE0CC8CACC8E86F16C6FE :: [] := by decide

theorem test_witness_AuthChalFailures :
    ([0x91] : Bytes).length ≠ 2 ∧ ([0x91, 0xAF] : Bytes) = [0x91, 0xAF] ∧ State.reset.hsPhase ≠ .waitRndB ∧
      (waitFinal .first).hsPhase ≠ .waitRndB ∧ waitRndB.hsPhase = .waitRndB ∧ ¬((0x91 : Byte) = 0x91 ∧ (0x00 : Byte) = 0xAF) ∧
      (zeros 15).length ≠ 16 := by decide

theorem waitFinal_awaits (v : Variant) : (waitFinal v).AwaitsFinal v 0 Block.zero
    (hexBlock 0xB04D0787C93EE0CC8CACC8E86F16C6FE) (hexBlock 0xFA659AD0DCA738DD65DC7DC38612AD81) :=
  ⟨rfl, rfl, rfl, rfl, rfl, rfl⟩

/-- P1 step 5. -/
theorem test_witness_AuthFinFirstCommits :
    (waitFinal .first).AwaitsFinal .first 0 Block.zero (hexBlock 0xB04D0787C93EE0CC8CACC8E86F16C6FE)
      (hexBlock 0xFA659AD0DCA738DD65DC7DC38612AD81) ∧
    (hex 32 0x614684BF121A545EFC926D7B22461DA594F3F0B7C7D73787E24180A855FE84B0).length = 32 ∧
    rotR1 (((cbcDec Block.zero Block.zero
      (hex 32 0x614684BF121A545EFC926D7B22461DA594F3F0B7C7D73787E24180A855FE84B0)).drop 4).take 16) =
        (hexBlock 0xB04D0787C93EE0CC8CACC8E86F16C6FE).toBytes :=
  ⟨waitFinal_awaits .first, by decide, by decide +kernel⟩

/-- P3's way with P1's card: the first block of P1 step 5's reply is replaced by the rotated nonce alone. -/
theorem test_witness_AuthFinNonFirstCommits :
    (waitFinal .nonFirst).AwaitsFinal .nonFirst 0 Block.zero (hexBlock 0xB04D0787C93EE0CC8CACC8E86F16C6FE)
      (hexBlock 0xFA659AD0DCA738DD65DC7DC38612AD81) ∧
    (cbcEnc Block.zero Block.zero (hex 16 0x4D0787C93EE0CC8CACC8E86F16C6FEB0)).length = 16 ∧
    rotR1 (cbcDec Block.zero Block.zero (cbcEnc Block.zero Block.zero (hex 16 0x4D0787C93EE0CC8CACC8E86F16C6FEB0))) =
        (hexBlock 0xB04D0787C93EE0CC8CACC8E86F16C6FE).toBytes :=
  ⟨waitFinal_awaits .nonFirst, by decide +kernel, by decide +kernel⟩

theorem test_witness_AuthFinFailures :
    ([0x91] : Bytes).length ≠ 2 ∧ waitRndB.hsPhase ≠ .waitFinal ∧ (waitFinal .first).hsPhase = .waitFinal ∧
    ¬((0x91 : Byte) = 0x91 ∧ (0xAF : Byte) = 0x00) ∧
    (waitFinal .nonFirst).AwaitsFinal .nonFirst 0 Block.zero (hexBlock 0xB04D0787C93EE0CC8CACC8E86F16C6FE)
      (hexBlock 0xFA659AD0DCA738DD65DC7DC38612AD81) ∧
    (zeros 32).length ≠ (if Variant.nonFirst = .first then 32 else 16) ∧
    (zeros 16).length ≠ (if Variant.first = .first then 32 else 16) ∧
    rotR1 (((cbcDec Block.zero Block.zero (hex 16 0x3B50445F21D21D77D500794DEB245E5A)).drop
      (if Variant.nonFirst = .first then 4 else 0)).take 16) ≠ (hexBlock 0xB04D0787C93EE0CC8CACC8E86F16C6FE).toBytes :=
  ⟨by decide, by decide, by decide, by decide, waitFinal_awaits .nonFirst, by decide, by decide, by decide +kernel⟩

theorem test_witness_HandshakeFailureClears :
    ([0x91, 0xAE] : Bytes).length = 2 ∧ waitRndB.hsPhase = .waitRndB ∧ (waitFinal .first).hsPhase = .waitFinal ∧
    (∃ t r, exec (.authChal [0x91, 0xAE] []) waitRndB = .next t ∧ t.result = some r ∧ r.rc ≠ .ok) ∧
    (∃ t r, exec (.authFin [0x91, 0xAE] []) (waitFinal .first) = .next t ∧ t.result = some r ∧ r.rc ≠ .ok) :=
  ⟨by decide, by decide, by decide, ⟨_, _, rfl, rfl, by decide⟩, ⟨_, _, rfl, rfl, by decide⟩⟩

theorem test_witness_HonestFirstHandshake : (0x0E : Byte).toNat = (14 : Fin 15).val ∧ (zeros 12).length = 12 := by decide

theorem test_witness_HonestNonFirstHandshake :
    (0x00 : Byte).toNat = (0 : Fin 15).val ∧ (session 2).cmdCtr = some 2 ∧
      (session 2).ti = some ⟨0xCD, 0x73, 0xD8, 0xE5⟩ := by decide

/-- The gate closed at reset and in a handshake; the longest command data. -/
theorem test_witness_SecuredGateClosed :
    State.reset.authFirst = false ∧ State.reset.authNonFirst = false ∧ waitRndB.authFirst = false ∧
    waitRndB.authNonFirst = false ∧ (zeros 65520).length % 16 = 0 ∧ (zeros 7).length + (zeros 65520).length + 8 ≤ 65535 ∧
    (0x00 : Byte) ≤ 0x01 ∧ (0x01 : Byte) ≤ 0x01 := by
  simp [zeros_length, State.reset, waitRndB]

theorem session_open (c : BitVec 16) : (session c).Session (hexBlock 0x63DC07286289A7A6C0334CA31C314A04)
    (hexBlock 0x774F26743ECE6AF5033B6AE8522946F6) c ⟨0xCD, 0x73, 0xD8, 0xE5⟩ := ⟨.inl rfl, rfl, rfl, rfl, rfl⟩

theorem test_witness_DerivedIvsReturned : ∃ ek mk t, (session 65535).Session ek mk 65535 t := ⟨_, _, _, session_open _⟩

theorem test_witness_SmCmdCompletes :
    (∃ ek mk t, (session 0).Session ek mk 0 t) ∧ (zeros 65520).length % 16 = 0 ∧
      (zeros 7).length + (zeros 65520).length + 8 ≤ 65535 := by
  exact ⟨⟨_, _, _, session_open _⟩, by simp [zeros_length]⟩

theorem test_witness_CodecRefusesBadOperands :
    ([0x8D, 0x8D] : Bytes).length ≠ 1 ∧ (zeros 25).length % 16 ≠ 0 ∧ 65535 < (zeros 8).length + (zeros 65520).length + 8 ∧
      ([0x91] : Bytes).length ≠ 2 ∧ ([0x91, 0x00] : Bytes).length = 2 ∧ (0x01 : Byte) < 0x02 ∧ (0x01 : Byte) < 0xFF := by
  simp [zeros_length]

theorem test_witness_SmRspAccepts :
    (∃ ek mk t, (session 0).Session ek mk 0 t) ∧ (0 : BitVec 16) ≠ 65535#16 ∧
    (∃ ek mk t, (session 65534).Session ek mk 65534 t) ∧ (65534 : BitVec 16) ≠ 65535#16 ∧ (zeros 16).length % 16 = 0 ∧
    ([] : Bytes).length % 16 = 0 :=
  ⟨⟨_, _, _, session_open _⟩, by decide, ⟨_, _, _, session_open _⟩, by decide, by decide, by decide⟩

theorem test_witness_CardResponseRecovered :
    (∃ ek mk t, (session 65534).Session ek mk 65534 t) ∧ (65534 : BitVec 16) ≠ 65535#16 ∧ (zeros 32).length % 16 = 0 :=
  ⟨⟨_, _, _, session_open _⟩, by decide, by decide⟩

theorem test_witness_SmRspStatusRefused :
    (session 65535).authenticated = true ∧ (0x01 : Byte) ≤ 0x01 ∧ ¬((0x91 : Byte) = 0x91 ∧ (0xAE : Byte) = 0x00) ∧
      ¬((0x00 : Byte) = 0x91 ∧ (0x00 : Byte) = 0x00) := by decide

theorem test_witness_SmRspCounterExhausted :
    (session 65535).authenticated = true ∧ (0x00 : Byte) ≤ 0x01 ∧ (session 65535).cmdCtr = some 65535#16 := by decide

/-- A body one byte short of a MAC, and 12 data bytes in mode 01. -/
theorem test_witness_SmRspMalformed :
    (session 65534).authenticated = true ∧ (0x01 : Byte) ≤ 0x01 ∧ (session 65534).cmdCtr = some 65534 ∧
      (65534 : BitVec 16) ≠ 65535#16 ∧ (zeros 7).length < 8 ∧
      ((0x01 : Byte) = 0x01 ∧ ((zeros 20).length - 8) % 16 ≠ 0) := by decide

/-- V34 (e), with the MAC of counter 0 where that of counter 1 is due. -/
theorem test_witness_SmRspMacFailed :
    (session 0).Session (hexBlock 0x63DC07286289A7A6C0334CA31C314A04) (hexBlock 0x774F26743ECE6AF5033B6AE8522946F6) 0
      ⟨0xCD, 0x73, 0xD8, 0xE5⟩ ∧
    (0 : BitVec 16) ≠ 65535#16 ∧ (0x00 : Byte) ≤ 0x01 ∧ (hex 8 0x25DD010D476E5645).length = 8 ∧
    ((0x00 : Byte) = 0x01 → ([] : Bytes).length % 16 = 0) ∧
    hex 8 0x25DD010D476E5645 ≠ trunc (cmac (hexBlock 0x774F26743ECE6AF5033B6AE8522946F6)
      (0x00 :: (0 + 1 : BitVec 16).extractLsb' 0 8 :: (0 + 1 : BitVec 16).extractLsb' 8 8 ::
        Quad.toBytes ⟨0xCD, 0x73, 0xD8, 0xE5⟩ ++ [])) :=
  ⟨session_open 0, by decide, by decide, by decide, by decide, by decide +kernel⟩

/-- The example session and the handshakes are well-formed states. -/
theorem session_wellFormed (c : BitVec 16) : (session c).WellFormed :=
  ⟨by simp [session, State.reset], by simp [State.SessionLoaded, session, State.reset], rfl, rfl,
    by simp [State.ScratchMatchesPhase, session, State.reset], by simp [State.NonFirstHasTransaction, session, State.reset],
    by simp [State.FirstHasNoTransaction, session, State.reset], by simp [State.NoSessionInHandshake, session, State.reset]⟩

theorem waitFinal_wellFormed : (waitFinal .first).WellFormed :=
  ⟨by simp [waitFinal, State.reset], by simp [State.SessionLoaded, State.authenticated, waitFinal, State.reset], rfl, rfl,
    by simp [State.ScratchMatchesPhase, waitFinal, State.reset], by simp [State.NonFirstHasTransaction, waitFinal],
    by simp [State.FirstHasNoTransaction, waitFinal, State.reset],
    by simp [State.NoSessionInHandshake, State.authenticated, waitFinal, State.reset]⟩

theorem test_witness_StepKeepsWellFormed :
    ((session 1).withInputs []).WellFormed ∧ ∃ t, step ((session 1).withInputs []) = .next t :=
  ⟨session_wellFormed 1, _, rfl⟩

theorem test_witness_WellFormedStepAnswers : (session 65535).WellFormed ∧ (waitFinal .first).WellFormed :=
  ⟨session_wellFormed _, waitFinal_wellFormed⟩

/-- A step that leaves the counter, one that clears it, and one that adds 1. -/
theorem test_witness_CounterNeverDecreases :
    (∀ d, ((session 7).offer d).WellFormed) ∧ (session 7).cmdCtr = some 7 ∧
    (∃ t, step ((session 7).offer [0x11]) = .next t ∧ t.cmdCtr = some 7) ∧
    (∃ t, step ((session 7).offer [0x10]) = .next t ∧ t.cmdCtr = none) ∧
    (∃ t, step ((session 7).offer [0x33, 0x01, 0x00, 0x00, 0x02, 0x00, 0x91, 0x00, 0x00, 0x00]) = .next t ∧
      t.cmdCtr = some (7 + 1)) :=
  ⟨fun _ => by
      obtain ⟨h1, h2, h3, h4, h5, h6, h7, h8⟩ := session_wellFormed 7
      exact ⟨h1, h2, h3, h4, h5, h6, h7, h8⟩,
    rfl, ⟨_, rfl, rfl⟩, ⟨_, rfl, rfl⟩, ⟨_, rfl, rfl⟩⟩

theorem test_witness_OnlyAuthFinLoadsSession :
    ∃ t, exec .ssClear (session 3) = .next t ∧
      ¬(Instr.ssClear.opcode = .authFin ∧ t.result.map Result.rc = some .ok) ∧ Instr.ssClear.opcode ≠ .smRsp :=
  ⟨_, rfl, by decide, by decide⟩

theorem test_witness_LastErrorOutlivesClearing :
    (∃ t, exec .ssClear (session 3) = .next t ∧ (session 3).lastErr.isSome = true) ∧
    (∃ t, exec (.ssSeterr [0x6F, 0x00]) (session 3) = .next t ∧ t.lastErr ≠ (session 3).lastErr) :=
  ⟨⟨_, rfl, by decide⟩, ⟨_, rfl, by decide⟩⟩

theorem test_witness_ProgrammingErrorsChangeNothing :
    ∃ t r, step ((session 3).offer [0x04, 0x00, 0x00]) = .next t ∧ t.result = some r ∧ r.rc.ProgrammingError :=
  ⟨_, _, rfl, rfl, by decide⟩

theorem test_witness_RepeatedOperationsIdempotent :
    ∃ t, exec .smIvc (session 3) = .next t ∧ Instr.smIvc.opcode ≠ .authStart ∧ Instr.smIvc.opcode ≠ .authChal ∧
      Instr.smIvc.opcode ≠ .authFin ∧ Instr.smIvc.opcode ≠ .smRsp :=
  ⟨_, rfl, by decide, by decide, by decide, by decide⟩

theorem test_witness_SecretsNotObservable :
    (session 3).SameButSecrets { session 3 with sesEncKey := some Block.zero } ∧
      (session 3).sesEncKey ≠ some Block.zero ∧ (∃ t, exec .ssStatus (session 3) = .next t) ∧
      Instr.ssStatus.opcode ≠ .authChal ∧ Instr.ssStatus.opcode ≠ .authFin ∧ Instr.ssStatus.opcode ≠ .smIvc ∧
      Instr.ssStatus.opcode ≠ .smIvr ∧ Instr.ssStatus.opcode ≠ .smCmd ∧ Instr.ssStatus.opcode ≠ .smRsp :=
  ⟨⟨rfl, rfl, rfl, rfl, rfl, rfl⟩, by decide +kernel, ⟨_, rfl⟩, by decide, by decide, by decide, by decide, by decide,
    by decide⟩

/-- AUTH.CHAL that ends in OK, and AUTH.CHAL out of turn. -/
theorem test_witness_DrawConsumedOnlyOnOk :
    (∃ t, exec (.authChal [0x91, 0xAF] (zeros 16)) waitRndB = .next t ∧ t.draws = waitRndB.draws.tail) ∧
    (∃ t, exec (.authChal [0x91, 0xAE] (zeros 16)) waitRndB = .next t ∧ t.draws = waitRndB.draws) :=
  ⟨⟨_, rfl, rfl⟩, ⟨_, rfl, rfl⟩⟩

theorem test_witness_EnvelopeAndStatusPair :
    (zeros 255).length ≤ 255 ∧ ([] : Bytes).length ≤ 255 ∧ ([0x91] : Bytes).length < 2 ∧ ([] : Bytes).length < 2 := by
  simp [zeros_length]

/-- V33 (e): a command without header and payload on the example session. -/
theorem getCardUid_completes (s : State) (ek mk : Block) (c : BitVec 16) (t : Quad) (h : s.Session ek mk c t) :
    exec (.smCmd [0x51] getCardUid.header getCardUid.plaintext) s =
      .next (s.deliver ⟨.ok, [commandData ek mk c t 0x51 [] []]⟩) := by
  simp only [exec, execSmCmd, withByte_singleton, getCardUid, SecuredCommand.plaintext]
  rw [withCipherData_of_length rfl,
    gated_open (by rcases h.authenticated with h | h <;> simp [State.authenticated, h])]
  simp [h.sesEncKey, h.sesMacKey, h.cmdCtr, h.ti, Config.macLen, Config.maxField]

theorem test_witness_LostCommandLeavesSession :
    Instr.WellFormed (.smCmd [0x51] getCardUid.header getCardUid.plaintext) ∧
    ∃ t data, exec (.smCmd [0x51] getCardUid.header getCardUid.plaintext) (session 0) = .next t ∧
      t.result = some ⟨.ok, [data]⟩ ∧ data.length ≤ 255 :=
  ⟨by simp [Instr.WellFormed, Instr.operands, getCardUid, SecuredCommand.plaintext, Config.maxField],
    _, _, getCardUid_completes _ _ _ _ _ (session_open 0), rfl, by decide +kernel⟩

/-- First from reset; NonFirst on the example session; both kinds of a lost exchange; a first reply's body. -/
theorem test_witness_LostHandshakeClears :
    (0x0E : Byte) ≤ 0x0E ∧ (zeros 16).length = 16 ∧
    (Variant.first = .nonFirst → State.reset.cmdCtr.isSome = true ∧ State.reset.ti.isSome = true) ∧
    (Variant.nonFirst = .nonFirst → (session 0).cmdCtr.isSome = true ∧ (session 0).ti.isSome = true) ∧
    (∀ reply : Bytes, none = some reply → reply.length < 2) ∧
    (∀ reply : Bytes, some [0x91] = some reply → reply.length < 2) :=
  ⟨by decide, by decide, nofun, fun _ => ⟨rfl, rfl⟩, nofun, fun _ h => Option.some.inj h ▸ by decide⟩

/-- A reply one byte too long for a field is not handed to the engine (log 8). -/
theorem test_long_reply_not_issued (s : State) (sent : List Bytes) (body : Result → State → HostOutcome) :
    issueOp (.smRsp [0x01] [0x91, 0x00] tooLong) sent s body = .next ⟨.tooLong, sent, s⟩ :=
  issueOp_tooLong (by simp [Instr.WellFormed, Instr.operands, Config.maxField, tooLong_length])

theorem test_witness_HostAuthenticatesFirst : (0x0E : Byte) ≤ 0x0E ∧ (zeros 12).length = 12 := by decide

end Sys2Proof.Tests
end

section
/-! PROOFS. MAC.TRUNC returns the bytes of the tag at odd indices (41_cmac.md R135, R137). -/

namespace Sys2Proof.Machine

open Sys2Proof

/-- The dispatch of MAC.TRUNC. -/
theorem exec_macTrunc (tag : Bytes) (s : State) : exec (.macTrunc tag) s = execMacTrunc tag s := rfl

/-- MAC.TRUNC on the 16 bytes of a block completes with the truncated block, and no register changes (R137). -/
theorem execMacTrunc_toBytes (t : Block) (s : State) :
    execMacTrunc t.toBytes s = .next (s.deliver ⟨.ok, [trunc t]⟩) := by
  simp [execMacTrunc]

/-- The truncated tag, byte by byte (R135). -/
theorem trunc_getD (t : Block) {i : Nat} (hi : i < 8) : (trunc t).getD i 0 = t.toBytes.getD (2 * i + 1) 0 := by
  match i, hi with
  | 0, _ | 1, _ | 2, _ | 3, _ | 4, _ | 5, _ | 6, _ | 7, _ => rfl

/-- Settles O19: a tag of 16 bytes is the string of a block, and MAC.TRUNC delivers that block's truncation. -/
theorem macTruncTakesOddBytes : Obligations.MacTruncTakesOddBytes := by
  intro tag s hlen
  obtain ⟨t, rfl⟩ : ∃ t : Block, tag = t.toBytes := ⟨_, eq_toBytes_of_length tag hlen⟩
  refine ⟨trunc t, ?_, trunc_length t, fun i hi => trunc_getD t hi⟩
  rw [exec_macTrunc, execMacTrunc_toBytes, State.deliver]

end Sys2Proof.Machine
end

section
/-! PROOFS. KDF.SES returns the two session keys over the derivation inputs written out (42_session_state_ops.md R150 to
R152). -/

namespace Sys2Proof.Machine

open Sys2Proof

/-- A slice from byte 0 is the first bytes of the string (R10). -/
theorem slice_zero_left (b : Bytes) (j : Nat) : slice b 0 j = b.take j := List.drop_zero

/-- A slice is the first bytes of what follows its start (R10). -/
theorem slice_eq_take_drop (b : Bytes) (i j : Nat) : slice b i j = (b.drop i).take (j - i) := List.drop_take

/-- A slice that reaches the end of the string is everything from its start on (R10). -/
theorem slice_to_end {b : Bytes} {j : Nat} (h : b.length ≤ j) (i : Nat) : slice b i j = b.drop i := by
  rw [slice, List.take_of_length_le h]

/-- The derivation input of two 16-byte nonces, as bytes taken and dropped from the two (R150). -/
theorem derivationInput_eq (label : Bytes) {randA randB : Bytes} (ha : randA.length = 16) (hb : randB.length = 16) :
    derivationInput label randA randB =
      label ++ [0x00, 0x01, 0x00, 0x80] ++ randA.take 2
        ++ List.zipWith (· ^^^ ·) ((randA.drop 2).take 6) (randB.take 6)
        ++ randB.drop 6 ++ randA.drop 8 := by
  rw [derivationInput, slice_zero_left, slice_zero_left, slice_eq_take_drop randA 2 8, slice_to_end hb.le,
    slice_to_end ha.le, List.append_assoc label]
  rfl

/-- With a 2-byte label and 16-byte nonces the derivation input is 32 bytes (R150). -/
theorem derivationInput_length {label randA randB : Bytes} (hl : label.length = 2) (ha : randA.length = 16)
    (hb : randB.length = 16) : (derivationInput label randA randB).length = 32 := by
  simp [derivationInput_eq label ha hb, hl, ha, hb]

/-- The session key of one label over nonces given as byte strings (R151). -/
theorem sessionKey_ofBytes (label : Bytes) (k : Block) {randA randB : Bytes} (ha : randA.length = 16)
    (hb : randB.length = 16) :
    sessionKey label k (Block.ofBytes randA) (Block.ofBytes randB) = cmac k (derivationInput label randA randB) := by
  rw [sessionKey, ← eq_toBytes_of_length randA ha, ← eq_toBytes_of_length randB hb]

/-- The dispatch of KDF.SES. -/
theorem exec_kdfSes (authKey randA randB : Bytes) (s : State) :
    exec (.kdfSes authKey randA randB) s = execKdfSes authKey randA randB s := rfl

/-- KDF.SES on three operands of 16 bytes completes with the encryption key and the MAC key, and no register changes
(R152). -/
theorem execKdfSes_of_length {authKey randA randB : Bytes} (hk : authKey.length = 16) (ha : randA.length = 16)
    (hb : randB.length = 16) (s : State) :
    execKdfSes authKey randA randB s = .next (s.deliver ⟨.ok,
      [(cmac (Block.ofBytes authKey) (derivationInput Config.labelEnc randA randB)).toBytes,
       (cmac (Block.ofBytes authKey) (derivationInput Config.labelMac randA randB)).toBytes]⟩) := by
  rw [execKdfSes, withKey_of_length hk, withBlock_of_length ha, withBlock_of_length hb, finish_eq, kdfEncKey, kdfMacKey,
    sessionKey_ofBytes _ _ ha hb, sessionKey_ofBytes _ _ ha hb]

/-- Settles O20: the derivation input written out is the model's, once per label. -/
theorem kdfSesCompletes : Obligations.KdfSesCompletes := by
  intro authKey randA randB s hk ha hb input
  have input_eq (label : Bytes) : input label = derivationInput label randA randB :=
    (derivationInput_eq label ha hb).symm
  refine ⟨fun l0 l1 => ?_, ?_⟩
  · rw [input_eq, derivationInput_length rfl ha hb]
  · rw [exec_kdfSes, execKdfSes_of_length hk ha hb, input_eq, input_eq, State.deliver, Config.labelEnc, Config.labelMac]

end Sys2Proof.Machine
end

section
/-! PROOFS. The register-file operations that write: SS.CLEAR (42_session_state_ops.md R157) and SS.SETERR (R159). -/

namespace Sys2Proof.Machine

open Sys2Proof

/-- The dispatch of SS.CLEAR. -/
theorem exec_ssClear (s : State) : exec .ssClear s = execSsClear s := rfl

/-- SS.CLEAR takes the full clear action in every state and completes without outputs (R157). -/
theorem execSsClear_eq (s : State) : execSsClear s = .next (s.clearSession.deliver ⟨.ok, []⟩) := by
  rw [execSsClear, finish_eq]

/-- Settles O23: the writes of SS.CLEAR are those of the full clear action (R32), which R157 lists. -/
theorem ssClearCompletes : Obligations.SsClearCompletes := by
  intro s
  rw [exec_ssClear, execSsClear_eq, State.deliver, State.clearSession, State.clearScratch]

/-- The dispatch of SS.SETERR. -/
theorem exec_ssSeterr (code : Bytes) (s : State) : exec (.ssSeterr code) s = execSsSeterr code s := rfl

/-- SS.SETERR with the two bytes of a pair writes that pair to LASTERR and completes (R159). -/
theorem execSsSeterr_pair (e0 e1 : Byte) (s : State) :
    execSsSeterr [e0, e1] s = .next ((s.setLastErr ⟨e0, e1⟩).deliver ⟨.ok, []⟩) := by
  rw [execSsSeterr, withPair_two, finish_eq]

/-- SS.SETERR refuses a code of another length and changes no register (R159). -/
theorem execSsSeterr_bad {code : Bytes} (h : code.length ≠ 2) (s : State) :
    execSsSeterr code s = .next (s.deliver ⟨.operandLength, []⟩) := by
  rw [execSsSeterr, withPair_bad h, raise_eq]

/-- Settles O25: a code of two bytes is stored, any other is refused. -/
theorem ssSeterrCompletes : Obligations.SsSeterrCompletes := by
  intro code s
  constructor
  · rintro e0 e1 rfl
    rw [exec_ssSeterr, execSsSeterr_pair, State.deliver, State.setLastErr]
  · intro hlen
    rw [exec_ssSeterr, execSsSeterr_bad hlen, State.deliver]

end Sys2Proof.Machine
end

section
/-! PROOFS. The secure codec on a session: the derived IVs of SM.IVC and SM.IVR, and what SM.CMD returns
(44_secure_codec.md R200 to R208). -/

namespace Sys2Proof.Machine

open Sys2Proof

/-- A session has passed the authentication that the gate of the secured operations asks for (R31, R202). -/
theorem State.Session.authenticated_eq_true {s : State} {ek mk : Block} {c : BitVec 16} {t : Quad}
    (h : s.Session ek mk c t) : s.authenticated = true := by
  rw [State.authenticated, Bool.or_eq_true]
  exact h.authenticated

/-- The input block of a derived IV, byte by byte: label, transaction identifier, counter low byte first, zeros
(R200, R201). -/
theorem ivInput_two (l0 l1 : Byte) (t : Quad) (c : BitVec 16) :
    ivInput [l0, l1] t c =
      ⟨⟨l0, l1, t.b0, t.b1⟩, ⟨t.b2, t.b3, c.extractLsb' 0 8, c.extractLsb' 8 8⟩, ⟨0, 0, 0, 0⟩, ⟨0, 0, 0, 0⟩⟩ := by
  rw [ivInput, counterBytes_eq]
  rfl

/-- The dispatch of SM.IVC. -/
theorem exec_smIvc (s : State) : exec .smIvc s = execSmIvc s := rfl

/-- The dispatch of SM.IVR. -/
theorem exec_smIvr (s : State) : exec .smIvr s = execSmIvr s := rfl

/-- SM.IVC on a session completes with the command IV of the current counter, and no register changes (R203). -/
theorem execSmIvc_session {s : State} {ek mk : Block} {c : BitVec 16} {t : Quad} (h : s.Session ek mk c t) :
    execSmIvc s = .next (s.deliver ⟨.ok, [(commandIv ek t c).toBytes]⟩) := by
  rw [execSmIvc, gated_open h.authenticated_eq_true, h.sesEncKey, h.ti, h.cmdCtr, readReg_some, readReg_some,
    readReg_some, finish_eq]

/-- SM.IVR on a session completes with the response IV of the current counter, and no register changes (R204). -/
theorem execSmIvr_session {s : State} {ek mk : Block} {c : BitVec 16} {t : Quad} (h : s.Session ek mk c t) :
    execSmIvr s = .next (s.deliver ⟨.ok, [(responseIv ek t c).toBytes]⟩) := by
  rw [execSmIvr, gated_open h.authenticated_eq_true, h.sesEncKey, h.ti, h.cmdCtr, readReg_some, readReg_some,
    readReg_some, finish_eq]

/-- Settles O38: the two operations encipher the same input block, each under its own label. -/
theorem derivedIvsReturned : Obligations.DerivedIvsReturned := by
  intro ek mk c t s h input
  have input_eq (l0 l1 : Byte) : input l0 l1 = ivInput [l0, l1] t c := (ivInput_two l0 l1 t c).symm
  constructor
  · rw [exec_smIvc, execSmIvc_session h, input_eq, State.deliver, commandIv, Config.labelEnc]
  · rw [exec_smIvr, execSmIvr_session h, input_eq, State.deliver, responseIv, Config.labelMac]

/-- The command MAC with its input written out, counter low byte first (R207). -/
theorem commandMac_eq (mk : Block) (cmdCode : Byte) (c : BitVec 16) (t : Quad) (header encPayload : Bytes) :
    commandMac mk cmdCode c t header encPayload =
      trunc (cmac mk (cmdCode :: [c.extractLsb' 0 8, c.extractLsb' 8 8] ++ t.toBytes ++ header ++ encPayload)) := by
  rw [commandMac, counterBytes_eq, List.singleton_append]

/-- The dispatch of SM.CMD. -/
theorem exec_smCmd (cmdCode header plaintext : Bytes) (s : State) :
    exec (.smCmd cmdCode header plaintext) s = execSmCmd cmdCode header plaintext s := rfl

/-- SM.CMD on a session, with operands whose result fits a field, completes with the command data, and no register
changes (R205 to R208). -/
theorem execSmCmd_session {s : State} {ek mk : Block} {c : BitVec 16} {t : Quad} (h : s.Session ek mk c t)
    (cmdCode : Byte) {header plaintext : Bytes} (hblocks : plaintext.length % 16 = 0)
    (hfits : header.length + plaintext.length + 8 ≤ 65535) :
    execSmCmd [cmdCode] header plaintext s =
      .next (s.deliver ⟨.ok, [commandData ek mk c t cmdCode header plaintext]⟩) := by
  have fits : ¬ header.length + plaintext.length + Config.macLen > Config.maxField := Nat.not_lt.mpr hfits
  rw [execSmCmd, withByte_singleton, withCipherData_of_length hblocks, if_neg fits,
    gated_open h.authenticated_eq_true, h.sesEncKey, h.sesMacKey, h.cmdCtr, h.ti, readReg_some, readReg_some,
    readReg_some, readReg_some, finish_eq]

/-- Settles O39: enciphering keeps the payload's length, the MAC is truncated to 8 bytes, and SM.CMD delivers header,
payload and MAC in this order. -/
theorem smCmdCompletes : Obligations.SmCmdCompletes := by
  intro cmdCode header plaintext ek mk c t s h hblocks hfits counter payload mac
  refine ⟨cbcEnc_length _ _ _ hblocks, trunc_length _, ?_⟩
  rw [exec_smCmd, execSmCmd_session h cmdCode hblocks hfits, State.deliver, commandData, commandMac_eq]

end Sys2Proof.Machine
end

section
/-! PROOFS. The outer envelope and the splitting of a reply (47_host_interface.md R230, R231). -/

namespace Sys2Proof.Machine

open Sys2Proof

/-- The envelope, byte by byte before its data (R230). -/
theorem wrap_eq (cmdCode : Byte) (data : Bytes) :
    wrap cmdCode data = 0x90 :: cmdCode :: 0x00 :: 0x00 :: BitVec.ofNat 8 data.length :: data ++ [0x00] := rfl

/-- A reply of fewer than 2 bytes carries no status pair (R231). -/
theorem splitStatus?_of_short {reply : Bytes} (h : reply.length < 2) : splitStatus? reply = none := if_pos h

/-- Settles O57: data of at most 255 bytes fits the envelope, a reply that ends in a status pair splits before it, and a
shorter reply does not split. -/
theorem envelopeAndStatusPair : Obligations.EnvelopeAndStatusPair := by
  refine ⟨fun cmdCode data hfits => ?envelope, splitStatus?_append_pair, fun _ hshort => splitStatus?_of_short hshort⟩
  case envelope => rw [wrap?_of_length hfits, wrap_eq]

end Sys2Proof.Machine
end

section
/-! PROOFS. The descriptor: decoding and encoding are inverse to each other (30_encoding.md R70 to R74), and what decodes to
no operation raises ILLEGAL_OP or BAD_DESCRIPTOR and leaves every register as it was (R73, R80). -/

namespace Sys2Proof

/-- Every operation finds its own row of the operation map, and its operands assemble to it again (R78, R79). -/
theorem operandsAssemble : ∀ i : Instr, Laws.OperandsAssemble.Statement i
  | .cbcEnc key iv data => Laws.OperandsAssemble.cbcEnc key iv data
  | .cbcDec key iv data => Laws.OperandsAssemble.cbcDec key iv data
  | .cmacGen key msg => Laws.OperandsAssemble.cmacGen key msg
  | .macTrunc tag => Laws.OperandsAssemble.macTrunc tag
  | .kdfSes authKey randA randB => Laws.OperandsAssemble.kdfSes authKey randA randB
  | .padM2 data => Laws.OperandsAssemble.padM2 data
  | .ssClear => Laws.OperandsAssemble.ssClear
  | .ssStatus => Laws.OperandsAssemble.ssStatus
  | .ssSeterr code => Laws.OperandsAssemble.ssSeterr code
  | .authStart variant keyNo authKey => Laws.OperandsAssemble.authStart variant keyNo authKey
  | .authChal status body => Laws.OperandsAssemble.authChal status body
  | .authFin status body => Laws.OperandsAssemble.authFin status body
  | .smIvc => Laws.OperandsAssemble.smIvc
  | .smIvr => Laws.OperandsAssemble.smIvr
  | .smCmd cmdCode header plaintext => Laws.OperandsAssemble.smCmd cmdCode header plaintext
  | .smRsp mode status body => Laws.OperandsAssemble.smRsp mode status body

/-- Behind the code of an operation stand as many fields as it has operands (R78, R79). -/
theorem opcodeRow?_opcode (i : Instr) :
    opcodeRow? i.opcode.code = some ⟨i.opcode.code, i.opcode, i.operands.length⟩ := (operandsAssemble i).1

theorem assemble_operands (i : Instr) : assemble i.opcode i.operands = some i := (operandsAssemble i).2

/-! ### The decoder, one equation per outcome -/

theorem decode_nil : decode [] = .badDescriptor := rfl

/-- ILLEGAL_OP is decided on the first byte alone (R73, R80). -/
theorem decode_cons_eq_illegalOp_iff (code : Byte) (body : Bytes) :
    decode (code :: body) = .illegalOp ↔ opcodeRow? code = none := by
  cases hrow : opcodeRow? code with
  | none => simp only [decode, hrow]
  | some row =>
    simp only [decode, hrow, reduceCtorEq, iff_false]
    split
    · split <;> simp
    · simp

/-- The descriptor of a well-formed instruction with nothing behind it (R70, R73). -/
theorem decode_encode {i : Instr} (h : i.WellFormed) : decode (encode i) = .instr i := by
  have fields : takeFields i.operands.length (i.operands.flatMap encodeField) = some (i.operands, []) := by
    simpa using takeFields_encodeField i.operands [] h
  simp only [encode, decode, opcodeRow?_opcode, fields, assemble_operands]

/-- The descriptor of a well-formed instruction with a byte too many (R73). -/
theorem decode_encode_append {i : Instr} (h : i.WellFormed) (b : Byte) (rest : Bytes) :
    decode (encode i ++ b :: rest) = .badDescriptor := by
  have fields := takeFields_encodeField i.operands (b :: rest) h
  simp only [encode, decode, List.cons_append, opcodeRow?_opcode, fields]

/-- What decodes to an operation is a code of the operation map and exactly the operation's fields. -/
theorem decode_eq_instr {d : Bytes} {i : Instr} (h : decode d = .instr i) :
    ∃ row body, d = row.code :: body ∧ row ∈ opcodeTable ∧ takeFields row.fields body = some (i.operands, []) ∧
      i.opcode = row.op := by
  unfold decode at h
  split at h
  · cases h
  next code body =>
    split at h
    · cases h
    next row hrow =>
      obtain ⟨hmem, hcode⟩ := opcodeRow?_some hrow
      split at h
      next args hargs =>
        split at h
        next j hj =>
          obtain rfl : j = i := by simpa using h
          obtain ⟨hop, hoperands⟩ := assemble_some hj
          exact ⟨row, body, by rw [hcode], hmem, by rw [hargs, hoperands], hop⟩
        · cases h
      · cases h

/-- What decodes to an operation is that operation's descriptor, and the operation is well-formed (R70, R73). -/
theorem encode_of_decode {d : Bytes} {i : Instr} (h : decode d = .instr i) : encode i = d ∧ i.WellFormed := by
  obtain ⟨row, body, rfl, hmem, hfields, hop⟩ := decode_eq_instr h
  obtain ⟨hbody, hfit, -⟩ := takeFields_some hfields
  have code_eq : i.opcode.code = row.code := by rw [hop, opcodeTable_code row hmem]
  rw [List.append_nil] at hbody
  exact ⟨by rw [encode, hbody, code_eq], hfit⟩

/-- A descriptor that was cut short is none (R73): if it still decoded, the bytes cut off would be trailing bytes. -/
theorem decode_take_encode {i : Instr} (h : i.WellFormed) {n : Nat} (hpos : 0 < n) (hcut : n < (encode i).length) :
    decode ((encode i).take n) = .badDescriptor := by
  cases hd : decode ((encode i).take n) with
  | badDescriptor => rfl
  | illegalOp =>
    obtain ⟨m, rfl⟩ : ∃ m, n = m + 1 := ⟨n - 1, by omega⟩
    rw [encode, List.take_succ_cons, decode_cons_eq_illegalOp_iff, opcodeRow?_opcode] at hd
    cases hd
  | instr j =>
    obtain ⟨hj, hwf⟩ := encode_of_decode hd
    obtain ⟨b, rest, hrest⟩ : ∃ b rest, (encode i).drop n = b :: rest :=
      List.exists_cons_of_ne_nil (by simpa using hcut)
    have bad := decode_encode_append hwf b rest
    rw [hj, ← hrest, List.take_append_drop, decode_encode h] at bad
    cases bad

/-! ### Lengths -/

theorem encodeField_length (b : Bytes) : (encodeField b).length = 2 + b.length := by
  rw [encodeField, List.length_append, le16_length]

/-- One byte for the code, and for each operand its two-byte length and its data (R74). -/
theorem encode_length (i : Instr) : (encode i).length = 1 + (i.operands.map fun a => 2 + a.length).sum := by
  simp [encode, List.length_flatMap, encodeField_length, Nat.add_comm]

/-! ### The operation codes -/

/-- The codes that are no operation's (R80): exactly those the operation map has no row for. -/
theorem opcodeRow?_eq_none_iff : ∀ code : Byte,
    (code = 0x00 ∨ (0x07 ≤ code ∧ code ≤ 0x0F) ∨ (0x13 ≤ code ∧ code ≤ 0x1F) ∨ (0x23 ≤ code ∧ code ≤ 0x2F) ∨
      0x34 ≤ code) ↔ opcodeRow? code = none := by decide +kernel

end Sys2Proof

namespace Sys2Proof.Machine

open Sys2Proof

/-- A descriptor that raises ILLEGAL_OP changes nothing but the record (R73, R264). -/
theorem runDescriptor_of_illegalOp {d : Bytes} (h : decode d = .illegalOp) (s : State) :
    runDescriptor d s = .next (s.deliver ⟨.illegalOp, []⟩) := by simp only [runDescriptor, h, raise_eq]

/-- A descriptor that raises BAD_DESCRIPTOR changes nothing but the record (R73, R264). -/
theorem runDescriptor_of_badDescriptor {d : Bytes} (h : decode d = .badDescriptor) (s : State) :
    runDescriptor d s = .next (s.deliver ⟨.badDescriptor, []⟩) := by simp only [runDescriptor, h, raise_eq]

/-- The descriptor of a well-formed instruction runs that instruction (R62, R73). -/
theorem step_offer_encode {i : Instr} (h : i.WellFormed) (s : State) : step (s.offer (encode i)) = exec i s := by
  rw [step_offer, runDescriptor_of_decode (decode_encode h)]

/-- A step whose next input is a descriptor runs it on the state without that input (R62). -/
theorem step_descriptor {s : State} {d : Bytes} {rest : List HostInput} (h : s.inputs = .descriptor d :: rest) :
    step s = runDescriptor d (s.withInputs rest) := by
  simp only [step, takeInput, h]

/-- A step whose next input is a reset resets the state without that input (R301). -/
theorem step_reset {s : State} {rest : List HostInput} (h : s.inputs = .reset :: rest) :
    step s = .next (s.withInputs rest).applyReset := by
  simp only [step, takeInput, h]

/-- Settles O1: the code finds the operation's row, and the fields come off as they were put on. -/
theorem decodeInvertsEncode : Obligations.DecodeInvertsEncode := fun _ hwf => decode_encode hwf

/-- Settles O2: the descriptor is encoded again, and its length is that of the encoding. -/
theorem encodeInvertsDecode : Obligations.EncodeInvertsDecode := by
  intro d i hd
  obtain ⟨hencode, hwf⟩ := encode_of_decode hd
  exact ⟨hencode, hwf, by rw [← hencode, encode_length]⟩

/-- Settles O3: the illegal codes are those without a row, and the row alone decides. -/
theorem illegalCodesRefused : Obligations.IllegalCodesRefused := by
  intro code rest s illegal
  have illegal_iff : illegal ↔ decode (code :: rest) = .illegalOp :=
    (opcodeRow?_eq_none_iff code).trans (decode_cons_eq_illegalOp_iff code rest).symm
  refine ⟨illegal_iff, fun hill => ?_⟩
  rw [step_offer, runDescriptor_of_illegalOp (illegal_iff.mp hill), State.deliver]

/-- Settles O4: in the three cases the decoder answers BAD_DESCRIPTOR. -/
theorem malformedDescriptorsRefused : Obligations.MalformedDescriptorsRefused := by
  intro i s hwf
  refine ⟨?empty, fun b rest => ?trailing, fun n hpos hcut => ?cutShort⟩
  case empty => rw [step_offer, runDescriptor_of_badDescriptor decode_nil, State.deliver]
  case trailing => rw [step_offer, runDescriptor_of_badDescriptor (decode_encode_append hwf b rest), State.deliver]
  case cutShort => rw [step_offer, runDescriptor_of_badDescriptor (decode_take_encode hwf hpos hcut), State.deliver]

/-- Settles O5, by running the decoder on the five strings. -/
theorem wordsDecode : Obligations.WordsDecode := by
  unfold Obligations.WordsDecode
  decide

/-- Settles O6: on a given input by what it decodes to, on an encoded instruction by O1. -/
theorem stepRunsDecodedOperation : Obligations.StepRunsDecodedOperation := by
  refine ⟨fun s d rest i hin hd => ?_, fun s i hwf => step_offer_encode hwf s⟩
  rw [step_descriptor hin, runDescriptor_of_decode hd, State.withInputs]

/-- Settles O7, by the step's first case. -/
theorem stepWithoutInputWaits : Obligations.StepWithoutInputWaits := fun _ hin => step_idle hin

/-- Settles O8: the reset takes the registers of the reset state, and keeps the coming inputs and draws. -/
theorem resetInputClearsEveryRegister : Obligations.ResetInputClearsEveryRegister := by
  intro s rest hin
  rw [step_reset hin, State.applyReset, State.reset, State.withInputs_inputs, State.withInputs_draws,
    State.withInputs_drawCount]

/-- Settles O9: the fields of the reset state, read off, and SS.STATUS on it. -/
theorem resetRegisterValues : Obligations.ResetRegisterValues :=
  ⟨rfl, rfl, rfl, rfl, rfl, rfl, rfl, rfl, rfl, rfl, rfl, rfl, rfl, rfl, rfl⟩

end Sys2Proof.Machine
end

section
/-! PROOFS. What an operation can do to the state, said once for all sixteen: the eleven effects. The claims about every
operation and every step (10_state.md, 60_exceptions.md) are read off them. -/

namespace Sys2Proof.Machine

open Sys2Proof

/-! ### The dispatch of the operations without a rule of their own so far -/

theorem exec_cbcEnc (key iv data : Bytes) (s : State) : exec (.cbcEnc key iv data) s = execCbcEnc key iv data s := rfl

theorem exec_cbcDec (key iv data : Bytes) (s : State) : exec (.cbcDec key iv data) s = execCbcDec key iv data s := rfl

theorem exec_cmacGen (key msg : Bytes) (s : State) : exec (.cmacGen key msg) s = execCmacGen key msg s := rfl

theorem exec_padM2 (data : Bytes) (s : State) : exec (.padM2 data) s = execPadM2 data s := rfl

theorem exec_ssStatus (s : State) : exec .ssStatus s = execSsStatus s := rfl

theorem exec_authStart (variant keyNo authKey : Bytes) (s : State) :
    exec (.authStart variant keyNo authKey) s = execAuthStart variant keyNo authKey s := rfl

theorem exec_authChal (status body : Bytes) (s : State) : exec (.authChal status body) s = execAuthChal status body s := rfl

theorem exec_authFin (status body : Bytes) (s : State) : exec (.authFin status body) s = execAuthFin status body s := rfl

/-- SS.STATUS answers the status bytes in every state, and no register changes (R158). -/
theorem execSsStatus_eq (s : State) : execSsStatus s = .next (s.deliver ⟨.ok, [statusBytes s]⟩) := by
  rw [execSsStatus, finish_eq]

/-! ### The effects -/

/-- The operations that write a status pair of the card to LASTERR: AUTH.CHAL, AUTH.FIN and SM.RSP (R28). -/
def TakesStatus (i : Instr) (st : StatusPair) : Prop :=
  (∃ body, i = .authChal st.toBytes body) ∨ (∃ body, i = .authFin st.toBytes body) ∨
    ∃ mode body, i = .smRsp mode st.toBytes body

/-- A record of a failure that is no programming error: the status pair for PROTOCOL_STATUS, else the code alone (R75). -/
def FailureRecord (st : StatusPair) (r : Result) : Prop :=
  r.rc ≠ .ok ∧ ¬r.rc.ProgrammingError ∧
    ((r.rc = .protocolStatus ∧ r.outs = [st.toBytes]) ∨ (r.rc ≠ .protocolStatus ∧ r.outs = []))

/-- The next states of an operation, by what it did to the registers. -/
inductive Effect (i : Instr) (s : State) : State → Prop
  /-- OK, and no register changed. -/
  | answered (outs : List Bytes) : Effect i s (s.deliver ⟨.ok, outs⟩)
  /-- A programming error, the same in every state (R264). -/
  | refused (c : ResultCode) (hc : c.ProgrammingError) (always : ∀ u, exec i u = .next (u.deliver ⟨c, []⟩)) :
      Effect i s (s.deliver ⟨c, []⟩)
  /-- PRECONDITION (R265). -/
  | precondition : Effect i s ((s.setLastErr Config.precondErrcode).deliver ⟨.precondition, []⟩)
  /-- SS.CLEAR (R157). -/
  | cleared : Effect i s (s.clearSession.deliver ⟨.ok, []⟩)
  /-- SS.SETERR (R159). -/
  | errorSet (p : StatusPair) (hi : i = .ssSeterr p.toBytes) : Effect i s ((s.setLastErr p).deliver ⟨.ok, []⟩)
  /-- AUTH.START with the handshake open (R171). -/
  | started (v : Variant) (n : Fin 15) (k : Block) (hprior : v = .nonFirst → s.hasPriorFirst = true) :
      Effect i s (((s.clearForStart v).openHandshake v n k).deliver ⟨.ok, [startParam v n]⟩)
  /-- AUTH.CHAL with the second message (R175). -/
  | challenged (st : StatusPair) (body : Bytes) (randB : Block) (msg : Bytes) (hi : i = .authChal st.toBytes body)
      (hphase : s.hsPhase = .waitRndB) :
      Effect i s ((((s.setLastErr st).consumeDraw).saveNonces s.nextDraw randB).deliver ⟨.ok, [msg]⟩)
  /-- AUTH.FIN with the session loaded (R180, R185). -/
  | committed (st : StatusPair) (body : Bytes) (v : Variant) (ek mk : Block) (n : Fin 15) (plain : Bytes)
      (hi : i = .authFin st.toBytes body) (hvariant : s.hsVariant = some v) :
      Effect i s (((s.setLastErr st).commitSession v ek mk n plain).deliver ⟨.ok, [receivedCaps v plain]⟩)
  /-- A failure that clears the session: of a handshake past its phase check, or the counter exhausted (R188, R213). -/
  | failedCleared (st : StatusPair) (r : Result) (hi : TakesStatus i st) (hr : FailureRecord st r) :
      Effect i s ((s.setLastErr st).clearSession.deliver r)
  /-- SM.RSP on a status pair that is no success (R212). -/
  | statusMirrored (st : StatusPair) (hi : TakesStatus i st) :
      Effect i s ((s.setLastErr st).deliver ⟨.protocolStatus, [st.toBytes]⟩)
  /-- SM.RSP with the counter advanced, whatever it then finds (R214 to R217). -/
  | advanced (st : StatusPair) (c : BitVec 16) (r : Result) (hi : TakesStatus i st) (hop : i.opcode = .smRsp)
      (hc : s.cmdCtr = some c) (hlast : c ≠ Config.lastCounter) (hr : r.rc = .ok ∨ FailureRecord st r) :
      Effect i s (((s.setLastErr st).setCmdCtr (c + 1)).deliver r)

/-- Refusing the operands in every state is one way of answering with the same record in every state. -/
theorem RaisesAlways.answersAlways {op : State → StepOutcome} (h : RaisesAlways op) : AnswersAlways op := by
  obtain ⟨c, hc, always⟩ := h
  exact ⟨⟨c, []⟩, .inr ⟨hc, rfl⟩, always⟩

/-- How a secured operation that changes no register ends: refused at the closed gate, or OK with one output field. -/
def GatedAnswer (s t : State) : Prop :=
  (s.authenticated = false ∧ t = (s.setLastErr Config.precondErrcode).deliver ⟨.precondition, []⟩) ∨
    (s.authenticated = true ∧ ∃ out, t = s.deliver ⟨.ok, [out]⟩)

theorem Effect.of_gatedAnswer (i : Instr) {s t : State} (h : GatedAnswer s t) : Effect i s t := by
  obtain ⟨-, rfl⟩ | ⟨-, out, rfl⟩ := h
  · exact .precondition
  · exact .answered [out]

/-- An operation that ends with the same record in every state answered, or refused its operands. -/
theorem Effect.of_answersAlways {i : Instr} {s t : State} (hi : AnswersAlways (exec i)) (h : exec i s = .next t) :
    Effect i s t := by
  obtain ⟨⟨c, outs⟩, hr, always⟩ := hi
  cases (always s).symm.trans h
  obtain rfl | ⟨hc, rfl⟩ := hr
  · exact .answered outs
  · exact .refused c hc always

theorem effect_ssSeterr {code : Bytes} {s t : State} (h : exec (.ssSeterr code) s = .next t) :
    Effect (.ssSeterr code) s t := by
  obtain hraises | ⟨p, rfl, hform⟩ := execSsSeterr_form code
  · exact .of_answersAlways hraises.answersAlways h
  · rw [exec_ssSeterr, hform] at h
    cases h
    exact .errorSet p rfl

theorem effect_authStart {variant keyNo authKey : Bytes} {s t : State}
    (h : exec (.authStart variant keyNo authKey) s = .next t) : Effect (.authStart variant keyNo authKey) s t := by
  obtain hraises | ⟨v, n, k, hform⟩ := execAuthStart_form variant keyNo authKey
  · exact .of_answersAlways hraises.answersAlways h
  · rw [exec_authStart, hform] at h
    split at h
    · cases h
      exact .precondition
    next hprior =>
      cases h
      exact .started v n k (by simpa using hprior)

theorem effect_authChal {status body : Bytes} {s t : State} (h : exec (.authChal status body) s = .next t) :
    Effect (.authChal status body) s t := by
  obtain hraises | ⟨st, rfl, hform⟩ := execAuthChal_form status body
  · exact .of_answersAlways hraises.answersAlways h
  · obtain ⟨-, rfl⟩ | ⟨-, r, hrc, hprog, houts, -, rfl⟩ | ⟨hphase, k, -, rfl⟩ := hform s t h
    · exact .precondition
    · refine .failedCleared st r (.inl ⟨body, rfl⟩) ⟨hrc, hprog, houts.imp_right fun ⟨hmal, hnil⟩ => ?_⟩
      exact ⟨by simp [hmal], hnil⟩
    · exact .challenged st body _ _ rfl hphase

theorem effect_authFin {status body : Bytes} {s t : State} (h : exec (.authFin status body) s = .next t) :
    Effect (.authFin status body) s t := by
  obtain hraises | ⟨st, rfl, hform⟩ := execAuthFin_form status body
  · exact .of_answersAlways hraises.answersAlways h
  · obtain ⟨-, rfl⟩ | ⟨-, r, hrc, hprog, houts, rfl⟩ | ⟨-, v, n, ek, mk, plain, hvariant, -, rfl⟩ := hform s t h
    · exact .precondition
    · exact .failedCleared st r (.inr (.inl ⟨body, rfl⟩)) ⟨hrc, hprog, houts⟩
    · exact .committed st body v ek mk n plain rfl hvariant

theorem effect_smCmd {cmdCode header plaintext : Bytes} {s t : State}
    (h : exec (.smCmd cmdCode header plaintext) s = .next t) : Effect (.smCmd cmdCode header plaintext) s t := by
  obtain hraises | hform := execSmCmd_form cmdCode header plaintext
  · exact .of_answersAlways hraises.answersAlways h
  · exact .of_gatedAnswer _ (hform s t h)

theorem effect_smRsp {mode status body : Bytes} {s t : State} (h : exec (.smRsp mode status body) s = .next t) :
    Effect (.smRsp mode status body) s t := by
  obtain hraises | ⟨st, rfl, hform⟩ := execSmRsp_form mode status body
  · exact .of_answersAlways hraises.answersAlways h
  · have hi : TakesStatus (.smRsp mode st.toBytes body) st := .inr (.inr ⟨mode, body, rfl⟩)
    obtain ⟨-, rfl⟩ | ⟨-, rfl⟩ | ⟨-, -, rfl⟩ | ⟨-, c, r, hc, hlast, hr, rfl⟩ := hform s t h
    · exact .precondition
    · exact .statusMirrored st hi
    · exact .failedCleared st _ hi ⟨by simp, by simp, .inr ⟨by simp, rfl⟩⟩
    · refine .advanced st c r hi rfl hc hlast (hr.imp_right ?_)
      rintro ⟨hrc | hrc, hnil⟩ <;> simp [FailureRecord, hrc, hnil]

/-- Every operation that answers a next state has one of the effects. -/
theorem exec_effect {i : Instr} {s t : State} (h : exec i s = .next t) : Effect i s t := by
  cases i with
  | cbcEnc key iv data => exact .of_answersAlways (execCbcEnc_always key iv data) h
  | cbcDec key iv data => exact .of_answersAlways (execCbcDec_always key iv data) h
  | cmacGen key msg => exact .of_answersAlways (execCmacGen_always key msg) h
  | macTrunc tag => exact .of_answersAlways (execMacTrunc_always tag) h
  | kdfSes authKey randA randB => exact .of_answersAlways (execKdfSes_always authKey randA randB) h
  | padM2 data => exact .of_answersAlways (execPadM2_always data) h
  | ssClear =>
    rw [exec_ssClear, execSsClear_eq] at h
    cases h
    exact .cleared
  | ssStatus =>
    rw [exec_ssStatus, execSsStatus_eq] at h
    cases h
    exact .answered _
  | ssSeterr code => exact effect_ssSeterr h
  | authStart variant keyNo authKey => exact effect_authStart h
  | authChal status body => exact effect_authChal h
  | authFin status body => exact effect_authFin h
  | smIvc => exact .of_gatedAnswer _ (execSmIvc_next h)
  | smIvr => exact .of_gatedAnswer _ (execSmIvr_next h)
  | smCmd cmdCode header plaintext => exact effect_smCmd h
  | smRsp mode status body => exact effect_smRsp h

/-- A property of a step that waiting, a reset, the two codes of decoding and every operation keep (R61, R62). -/
theorem step_induction {P : State → State → Prop} {s t : State} (hstep : step s = .next t) (wait : P s s)
    (reset : ∀ rest, P s (s.withInputs rest).applyReset)
    (undecoded : ∀ rest c, c.ProgrammingError → P s ((s.withInputs rest).deliver ⟨c, []⟩))
    (op : ∀ rest i, Effect i (s.withInputs rest) t → P s t) : P s t := by
  obtain ⟨-, hs⟩ | ⟨rest, -, hs⟩ | ⟨d, rest, -, hs⟩ := step_cases s
  · cases hs.symm.trans hstep
    exact wait
  · cases hs.symm.trans hstep
    exact reset rest
  · rw [hs] at hstep
    obtain ⟨i, -, hd⟩ | ⟨-, hd⟩ | ⟨-, hd⟩ := runDescriptor_cases d (s.withInputs rest)
    · exact op rest i (exec_effect (hd ▸ hstep))
    · cases hd.symm.trans hstep
      exact undecoded rest .illegalOp (.inl rfl)
    · cases hd.symm.trans hstep
      exact undecoded rest .badDescriptor (.inr (.inl rfl))

end Sys2Proof.Machine
end

section
/-! PROOFS. The invariants of the state (10_state.md R26, R31, R38, R39, R45): every update keeps the well-formed states, so
every effect and every step does, and no step of a well-formed state meets an empty register (R14). -/

namespace Sys2Proof.Machine

open Sys2Proof

/-! ### The updates on well-formed states -/

theorem State.WellFormed.deliver {s : State} (h : s.WellFormed) (r : Result) : (s.deliver r).WellFormed := { h with }

theorem State.WellFormed.setLastErr {s : State} (h : s.WellFormed) (p : StatusPair) : (s.setLastErr p).WellFormed :=
  { h with }

theorem State.WellFormed.withInputs {s : State} (h : s.WellFormed) (rest : List HostInput) :
    (s.withInputs rest).WellFormed := { h with }

theorem State.WellFormed.consumeDraw {s : State} (h : s.WellFormed) : s.consumeDraw.WellFormed := { h with }

/-- The full clear action leaves the state cleared (R32). -/
theorem State.clearSession_cleared (s : State) : s.clearSession.Cleared :=
  ⟨rfl, rfl, rfl, rfl, rfl, rfl, rfl, rfl, rfl, rfl, rfl, rfl, rfl⟩

/-- A reset leaves the state cleared (R300). -/
theorem State.applyReset_cleared (s : State) : s.applyReset.Cleared :=
  ⟨rfl, rfl, rfl, rfl, rfl, rfl, rfl, rfl, rfl, rfl, rfl, rfl, rfl⟩

theorem State.reset_cleared : State.reset.Cleared :=
  ⟨rfl, rfl, rfl, rfl, rfl, rfl, rfl, rfl, rfl, rfl, rfl, rfl, rfl⟩

/-- A cleared state is well-formed: no session, no handshake, no transaction. -/
theorem State.Cleared.wellFormed {s : State} (h : s.Cleared) : s.WellFormed := by
  obtain ⟨hek, hmk, hctr, hti, hkey, hfirst, hnonFirst, hphase, hvariant, hhsKey, hauth, ha, hb⟩ := h
  constructor <;>
    simp [State.FlagsExclusive, State.SessionLoaded, State.KeysTogether, State.TransactionTogether,
      State.ScratchMatchesPhase, State.NonFirstHasTransaction, State.FirstHasNoTransaction, State.NoSessionInHandshake,
      State.authenticated, *]

/-- AUTH.START First opens a handshake without a transaction (R171, R173). -/
theorem State.wellFormed_startFirst (s : State) (n : Fin 15) (k : Block) :
    (s.clearSession.openHandshake .first n k).WellFormed where
  flagsExclusive := nofun
  sessionLoaded := nofun
  keysTogether := rfl
  transactionTogether := rfl
  scratchMatchesPhase := ⟨rfl, rfl, rfl, rfl, rfl⟩
  nonFirstHasTransaction := nofun
  firstHasNoTransaction _ := ⟨rfl, rfl⟩
  noSessionInHandshake _ := rfl

/-- AUTH.START NonFirst opens a handshake on the transaction that stands (R171 to R173). -/
theorem State.wellFormed_startNonFirst {s : State} (hprior : s.hasPriorFirst = true) (n : Fin 15) (k : Block) :
    (s.clearForNonFirst.openHandshake .nonFirst n k).WellFormed := by
  obtain ⟨hctr, hti⟩ := Bool.and_eq_true_iff.mp hprior
  exact
  { flagsExclusive := nofun
    sessionLoaded := nofun
    keysTogether := rfl
    transactionTogether := hctr.trans hti.symm
    scratchMatchesPhase := ⟨rfl, rfl, rfl, rfl, rfl⟩
    nonFirstHasTransaction := fun _ => ⟨hctr, hti⟩
    firstHasNoTransaction := nofun
    noSessionInHandshake := fun _ => rfl }

/-- The handshake, of either variant, goes on to its second half with both nonces (R175). -/
theorem State.WellFormed.saveNonces {s : State} (h : s.WellFormed) (hphase : s.hsPhase = .waitRndB) (a b : Block) :
    (s.saveNonces a b).WellFormed := by
  have scratch := h.scratchMatchesPhase
  have closed := h.noSessionInHandshake
  simp only [State.ScratchMatchesPhase, State.NoSessionInHandshake, hphase] at scratch closed
  obtain ⟨hvariant, hkey, hauth, -, -⟩ := scratch
  exact { h with
    scratchMatchesPhase := ⟨hvariant, hkey, hauth, rfl, rfl⟩
    noSessionInHandshake := fun _ => closed nofun }

/-- The counter may move while it is valid: no First handshake is open then (R214, R219). -/
theorem State.WellFormed.setCmdCtr {s : State} (h : s.WellFormed) {c : BitVec 16} (hc : s.cmdCtr = some c)
    (n : BitVec 16) : (s.setCmdCtr n).WellFormed := by
  have hti : s.ti.isSome = true := by simpa [State.TransactionTogether, hc] using h.transactionTogether.symm
  exact { h with
    sessionLoaded := fun hauth => by
      obtain ⟨hek, hmk, -, ht, hkey⟩ := h.sessionLoaded hauth
      exact ⟨hek, hmk, rfl, ht, hkey⟩
    transactionTogether := hti.symm
    nonFirstHasTransaction := fun _ => ⟨rfl, hti⟩
    firstHasNoTransaction := fun hfirst => by
      have := (h.firstHasNoTransaction hfirst).1
      simp [hc] at this }

/-- The commit of a First authentication loads every register of a session (R185). -/
theorem State.wellFormed_commitFirst (s : State) (ek mk : Block) (n : Fin 15) (t : Quad) :
    (s.commitFirst ek mk n t).WellFormed where
  flagsExclusive := nofun
  sessionLoaded _ := ⟨rfl, rfl, rfl, rfl, rfl⟩
  keysTogether := rfl
  transactionTogether := rfl
  scratchMatchesPhase := ⟨rfl, rfl, rfl, rfl, rfl⟩
  nonFirstHasTransaction := nofun
  firstHasNoTransaction := nofun
  noSessionInHandshake := nofun

/-- The commit of a NonFirst authentication loads the keys to the transaction that stands (R185, R186). -/
theorem State.wellFormed_commitNonFirst {s : State} (hctr : s.cmdCtr.isSome = true) (hti : s.ti.isSome = true)
    (ek mk : Block) (n : Fin 15) : (s.commitNonFirst ek mk n).WellFormed where
  flagsExclusive := nofun
  sessionLoaded _ := ⟨rfl, rfl, hctr, hti, rfl⟩
  keysTogether := rfl
  transactionTogether := hctr.trans hti.symm
  scratchMatchesPhase := ⟨rfl, rfl, rfl, rfl, rfl⟩
  nonFirstHasTransaction := nofun
  firstHasNoTransaction := nofun
  noSessionInHandshake hopen := absurd rfl hopen

/-! ### Every effect and every step -/

/-- Every effect of an operation keeps the well-formed states well-formed. -/
theorem Effect.wellFormed {i : Instr} {s t : State} (e : Effect i s t) (h : s.WellFormed) : t.WellFormed := by
  cases e with
  | answered outs => exact h.deliver _
  | refused c hc always => exact h.deliver _
  | precondition => exact (h.setLastErr _).deliver _
  | cleared => exact s.clearSession_cleared.wellFormed.deliver _
  | errorSet p hi => exact (h.setLastErr p).deliver _
  | started v n k hprior =>
    cases v with
    | first => exact (s.wellFormed_startFirst n k).deliver _
    | nonFirst => exact (State.wellFormed_startNonFirst (hprior rfl) n k).deliver _
  | challenged st body randB msg hi hphase =>
    exact ((h.setLastErr st).consumeDraw.saveNonces hphase _ _).deliver _
  | committed st body v ek mk n plain hi hvariant =>
    cases v with
    | first => exact (State.wellFormed_commitFirst _ ek mk n _).deliver _
    | nonFirst =>
      obtain ⟨hctr, hti⟩ := h.nonFirstHasTransaction hvariant
      exact (State.wellFormed_commitNonFirst (s := s.setLastErr st) hctr hti ek mk n).deliver _
  | failedCleared st r hi hr => exact (State.clearSession_cleared _).wellFormed.deliver _
  | statusMirrored st hi => exact (h.setLastErr st).deliver _
  | advanced st c r hi hop hc hlast hr => exact ((h.setLastErr st).setCmdCtr hc _).deliver _

/-- Settles O47: waiting, a reset, the codes of decoding and every effect of an operation keep the invariants. -/
theorem stepKeepsWellFormed : Obligations.StepKeepsWellFormed := by
  intro s t hwf hstep
  refine step_induction (P := fun _ t => t.WellFormed) hstep hwf ?reset ?undecoded ?op
  case reset => exact fun rest => (State.applyReset_cleared _).wellFormed
  case undecoded => exact fun rest c _ => (hwf.withInputs rest).deliver _
  case op => exact fun rest i e => e.wellFormed (hwf.withInputs rest)

/-- Settles O48: the reset state is a cleared one. -/
theorem resetWellFormed : Obligations.ResetWellFormed := State.reset_cleared.wellFormed

/-! ### No empty register is met -/

/-- The operation ends, in whatever way, with a next state. -/
def Answers (o : StepOutcome) : Prop := ∃ t, o = .next t

theorem answers_next (t : State) : Answers (.next t) := ⟨t, rfl⟩

theorem answers_readReg {α : Type} {n : RegName} {reg : Option α} {body : α → StepOutcome} (hreg : reg.isSome = true)
    (hbody : ∀ v, Answers (body v)) : Answers (readReg n reg body) := by
  obtain ⟨v, rfl⟩ := Option.isSome_iff_exists.mp hreg
  exact hbody v

theorem answers_gated {s : State} {body : StepOutcome} (hbody : s.authenticated = true → Answers body) :
    Answers (gated s body) := by
  cases hauth : s.authenticated with
  | true => rw [gated_open hauth]; exact hbody hauth
  | false => rw [gated_closed hauth]; exact answers_next _

theorem answers_withByte {f : Bytes} {s : State} {body : Byte → StepOutcome} (hbody : ∀ b, Answers (body b)) :
    Answers (withByte f s body) := by
  unfold withByte
  split
  · exact hbody _
  · exact answers_next _

theorem answers_withPair {f : Bytes} {s : State} {body : StatusPair → StepOutcome} (hbody : ∀ p, Answers (body p)) :
    Answers (withPair f s body) := by
  unfold withPair
  split
  · exact hbody _
  · exact answers_next _

theorem answers_withMode {b : Byte} {s : State} {body : RespMode → StepOutcome} (hbody : ∀ m, Answers (body m)) :
    Answers (withMode b s body) := by
  unfold withMode
  split
  · exact hbody _
  · exact answers_next _

theorem answers_withCipherData {f : Bytes} {s : State} {body : Bytes → StepOutcome} (hbody : ∀ b, Answers (body b)) :
    Answers (withCipherData f s body) := by
  unfold withCipherData
  split
  · exact hbody _
  · exact answers_next _

theorem AnswersAlways.answers {op : State → StepOutcome} (h : AnswersAlways op) (s : State) : Answers (op s) := by
  obtain ⟨r, -, always⟩ := h
  exact ⟨_, always s⟩

theorem execSsSeterr_answers (code : Bytes) (s : State) : Answers (execSsSeterr code s) :=
  answers_withPair fun _ => answers_next _

theorem execAuthStart_answers (variant keyNo authKey : Bytes) (s : State) :
    Answers (execAuthStart variant keyNo authKey s) := by
  obtain hraises | ⟨v, n, k, hform⟩ := execAuthStart_form variant keyNo authKey
  · exact hraises.answersAlways.answers s
  · rw [hform]
    split <;> exact answers_next _

/-- AUTH.CHAL in its turn finds the authentication key (R38). -/
theorem execAuthChal_answers (status body : Bytes) {s : State} (h : s.WellFormed) :
    Answers (execAuthChal status body s) := by
  refine answers_withPair fun st => ?_
  by_cases hphase : s.hsPhase = .waitRndB
  · have scratch := h.scratchMatchesPhase
    simp only [State.ScratchMatchesPhase, hphase] at scratch
    obtain ⟨-, -, hauth, -, -⟩ := scratch
    rw [if_neg (not_not.mpr hphase)]
    dsimp only
    split
    · exact answers_next _
    · split
      · exact answers_next _
      · exact answers_readReg hauth fun _ => answers_next _
  · rw [if_pos hphase]
    exact answers_next _

/-- AUTH.FIN in its turn finds every scratch register (R38). -/
theorem execAuthFin_answers (status body : Bytes) {s : State} (h : s.WellFormed) :
    Answers (execAuthFin status body s) := by
  refine answers_withPair fun st => ?_
  by_cases hphase : s.hsPhase = .waitFinal
  · have scratch := h.scratchMatchesPhase
    simp only [State.ScratchMatchesPhase, hphase] at scratch
    obtain ⟨hvariant, hkey, hauth, ha, hb⟩ := scratch
    rw [if_neg (not_not.mpr hphase)]
    dsimp only
    split
    · exact answers_next _
    · refine answers_readReg hvariant fun v => ?_
      split
      · exact answers_next _
      · refine answers_readReg hauth fun k => answers_readReg ha fun randA => ?_
        split
        · exact answers_next _
        · exact answers_readReg hb fun randB => answers_readReg hkey fun n => answers_next _
  · rw [if_pos hphase]
    exact answers_next _

/-- The gate promises the registers of the session (R31). -/
theorem execSmIvc_answers {s : State} (h : s.WellFormed) : Answers (execSmIvc s) :=
  answers_gated fun hauth => by
    obtain ⟨hek, -, hctr, hti, -⟩ := h.sessionLoaded hauth
    exact answers_readReg hek fun _ => answers_readReg hti fun _ => answers_readReg hctr fun _ => answers_next _

theorem execSmIvr_answers {s : State} (h : s.WellFormed) : Answers (execSmIvr s) :=
  answers_gated fun hauth => by
    obtain ⟨hek, -, hctr, hti, -⟩ := h.sessionLoaded hauth
    exact answers_readReg hek fun _ => answers_readReg hti fun _ => answers_readReg hctr fun _ => answers_next _

theorem execSmCmd_answers (cmdCode header plaintext : Bytes) {s : State} (h : s.WellFormed) :
    Answers (execSmCmd cmdCode header plaintext s) := by
  refine answers_withByte fun cc => answers_withCipherData fun pt => ?_
  split
  · exact answers_next _
  · refine answers_gated fun hauth => ?_
    obtain ⟨hek, hmk, hctr, hti, -⟩ := h.sessionLoaded hauth
    exact answers_readReg hek fun _ => answers_readReg hmk fun _ => answers_readReg hctr fun _ =>
      answers_readReg hti fun _ => answers_next _

theorem verifyResponse_answers (m : RespMode) (body : Bytes) (n : BitVec 16) {s : State} (hek : s.sesEncKey.isSome = true)
    (hmk : s.sesMacKey.isSome = true) (hti : s.ti.isSome = true) : Answers (verifyResponse m body n s) := by
  unfold verifyResponse
  split
  · exact answers_next _
  · refine answers_readReg hmk fun _ => answers_readReg hti fun _ => ?_
    split
    · exact answers_next _
    · cases m with
      | plain => exact answers_next _
      | enciphered => exact answers_readReg hek fun _ => answers_next _

theorem execSmRsp_answers (mode status body : Bytes) {s : State} (h : s.WellFormed) :
    Answers (execSmRsp mode status body s) := by
  refine answers_withByte fun mb => answers_withPair fun st => answers_withMode fun m => answers_gated fun hauth => ?_
  obtain ⟨hek, hmk, hctr, hti, -⟩ := h.sessionLoaded hauth
  dsimp only
  split
  · exact answers_next _
  · refine answers_readReg hctr fun c => ?_
    split
    · exact answers_next _
    · exact verifyResponse_answers m body _ hek hmk hti

/-- In a well-formed state every operation answers a next state (R14). -/
theorem exec_answers (i : Instr) {s : State} (h : s.WellFormed) : Answers (exec i s) := by
  cases i with
  | cbcEnc key iv data => exact (execCbcEnc_always key iv data).answers s
  | cbcDec key iv data => exact (execCbcDec_always key iv data).answers s
  | cmacGen key msg => exact (execCmacGen_always key msg).answers s
  | macTrunc tag => exact (execMacTrunc_always tag).answers s
  | kdfSes authKey randA randB => exact (execKdfSes_always authKey randA randB).answers s
  | padM2 data => exact (execPadM2_always data).answers s
  | ssClear => exact answers_next _
  | ssStatus => exact answers_next _
  | ssSeterr code => exact execSsSeterr_answers code s
  | authStart variant keyNo authKey => exact execAuthStart_answers variant keyNo authKey s
  | authChal status body => exact execAuthChal_answers status body h
  | authFin status body => exact execAuthFin_answers status body h
  | smIvc => exact execSmIvc_answers h
  | smIvr => exact execSmIvr_answers h
  | smCmd cmdCode header plaintext => exact execSmCmd_answers cmdCode header plaintext h
  | smRsp mode status body => exact execSmRsp_answers mode status body h

/-- In a well-formed state every descriptor is answered (R62, R73). -/
theorem runDescriptor_answers (d : Bytes) {s : State} (h : s.WellFormed) : Answers (runDescriptor d s) := by
  obtain ⟨i, -, hd⟩ | ⟨-, hd⟩ | ⟨-, hd⟩ := runDescriptor_cases d s
  · exact hd ▸ exec_answers i h
  · exact ⟨_, hd⟩
  · exact ⟨_, hd⟩

theorem step_answers {s : State} (h : s.WellFormed) : Answers (step s) := by
  obtain ⟨-, hs⟩ | ⟨rest, -, hs⟩ | ⟨d, rest, -, hs⟩ := step_cases s
  · exact ⟨_, hs⟩
  · exact ⟨_, hs⟩
  · exact hs ▸ runDescriptor_answers d (h.withInputs rest)

/-! ### The record -/

/-- The output fields by the code: one pair of bytes for PROTOCOL_STATUS, none for any other code but OK (R75). -/
def OutputsMatchCode (r : Result) : Prop :=
  (r.rc = .protocolStatus → ∃ e0 e1 : Byte, r.outs = [[e0, e1]]) ∧ (r.rc ≠ .ok → r.rc ≠ .protocolStatus → r.outs = [])

theorem outputsMatchCode_ok (outs : List Bytes) : OutputsMatchCode ⟨.ok, outs⟩ := ⟨nofun, fun hok => absurd rfl hok⟩

theorem outputsMatchCode_code {c : ResultCode} (hc : c ≠ .protocolStatus) : OutputsMatchCode ⟨c, []⟩ :=
  ⟨fun hstatus => absurd hstatus hc, fun _ _ => rfl⟩

theorem ResultCode.ProgrammingError.ne_protocolStatus {c : ResultCode} (h : c.ProgrammingError) : c ≠ .protocolStatus := by
  rintro rfl
  exact absurd h (by decide)

theorem FailureRecord.outputsMatchCode {st : StatusPair} {r : Result} (h : FailureRecord st r) : OutputsMatchCode r := by
  obtain ⟨-, -, ⟨hrc, houts⟩ | ⟨hrc, houts⟩⟩ := h
  · exact ⟨fun _ => ⟨st.b0, st.b1, houts⟩, fun _ hne => absurd hrc hne⟩
  · exact ⟨fun hstatus => absurd hstatus hrc, fun _ _ => houts⟩

/-- Every effect delivers one record whose output fields match its code, and takes no input (R62, R75). -/
theorem Effect.record {i : Instr} {s t : State} (e : Effect i s t) :
    ∃ r, t.result = some r ∧ t.inputs = s.inputs ∧ OutputsMatchCode r := by
  cases e with
  | answered outs => exact ⟨_, rfl, rfl, outputsMatchCode_ok _⟩
  | refused c hc always => exact ⟨_, rfl, rfl, outputsMatchCode_code hc.ne_protocolStatus⟩
  | precondition => exact ⟨_, rfl, rfl, outputsMatchCode_code nofun⟩
  | cleared => exact ⟨_, rfl, rfl, outputsMatchCode_ok _⟩
  | errorSet p hi => exact ⟨_, rfl, rfl, outputsMatchCode_ok _⟩
  | started v n k hprior => cases v <;> exact ⟨_, rfl, rfl, outputsMatchCode_ok _⟩
  | challenged st body randB msg hi hphase => exact ⟨_, rfl, rfl, outputsMatchCode_ok _⟩
  | committed st body v ek mk n plain hi hvariant => cases v <;> exact ⟨_, rfl, rfl, outputsMatchCode_ok _⟩
  | failedCleared st r hi hr => exact ⟨r, rfl, rfl, hr.outputsMatchCode⟩
  | statusMirrored st hi => exact ⟨_, rfl, rfl, fun _ => ⟨st.b0, st.b1, rfl⟩, fun _ hne => absurd rfl hne⟩
  | advanced st c r hi hop hc hlast hr =>
    refine ⟨r, rfl, rfl, hr.elim ?_ FailureRecord.outputsMatchCode⟩
    intro hok
    exact ⟨fun hstatus => by simp [hok] at hstatus, fun hne => absurd hok hne⟩

/-- Every answered descriptor delivers one such record. -/
theorem runDescriptor_record {d : Bytes} {s t : State} (h : runDescriptor d s = .next t) :
    ∃ r, t.result = some r ∧ t.inputs = s.inputs ∧ OutputsMatchCode r := by
  obtain ⟨i, -, hd⟩ | ⟨-, hd⟩ | ⟨-, hd⟩ := runDescriptor_cases d s
  · exact (exec_effect (hd ▸ h)).record
  · cases hd.symm.trans h
    exact ⟨_, rfl, rfl, outputsMatchCode_code nofun⟩
  · cases hd.symm.trans h
    exact ⟨_, rfl, rfl, outputsMatchCode_code nofun⟩

/-- Settles O49: the registers a rule needs are there by the invariants, and every effect delivers its record. -/
theorem wellFormedStepAnswers : Obligations.WellFormedStepAnswers := by
  refine fun s hwf => ⟨step_answers hwf, fun d => ?_⟩
  obtain ⟨t, ht⟩ := runDescriptor_answers d hwf
  obtain ⟨r, hr, hinputs, houtputs⟩ := runDescriptor_record ht
  exact ⟨t, r, ht, hr, hinputs, houtputs⟩

end Sys2Proof.Machine
end

section
/-! PROOFS. What no operation does but the one that is named: the counter's moves (44_secure_codec.md R219), the loading of a
session (43_authentication.md R185), the writes of LASTERR (10_state.md R28), the programming errors (60_exceptions.md R264).
All are read off the effects of an operation. -/

namespace Sys2Proof.Machine

open Sys2Proof

/-! ### The counter -/

/-- An effect on a valid counter leaves it, adds 1 below the last value with TI as it was, or clears it. A First commit would
set it to 0, but a First handshake holds no counter. -/
theorem Effect.counter {i : Instr} {s t : State} (e : Effect i s t) (h : s.WellFormed) {c : BitVec 16}
    (hctr : s.cmdCtr = some c) :
    t.cmdCtr = some c ∨ (c ≠ Config.lastCounter ∧ t.cmdCtr = some (c + 1) ∧ t.ti = s.ti) ∨ t.cmdCtr = none := by
  cases e with
  | answered outs => exact .inl hctr
  | refused code hc always => exact .inl hctr
  | precondition => exact .inl hctr
  | cleared => exact .inr (.inr rfl)
  | errorSet p hi => exact .inl hctr
  | started v n k hprior =>
    cases v with
    | first => exact .inr (.inr rfl)
    | nonFirst => exact .inl hctr
  | challenged st body randB msg hi hphase => exact .inl hctr
  | committed st body v ek mk n plain hi hvariant =>
    cases v with
    | first =>
      obtain ⟨hnone, -⟩ := h.firstHasNoTransaction hvariant
      exact absurd (hctr.symm.trans hnone) (by simp)
    | nonFirst => exact .inl hctr
  | failedCleared st r hi hr => exact .inr (.inr rfl)
  | statusMirrored st hi => exact .inl hctr
  | advanced st c' r hi hop hc hlast hr =>
    obtain rfl : c' = c := Option.some.inj (hc.symm.trans hctr)
    exact .inr (.inl ⟨hlast, rfl, rfl⟩)

theorem toNat_lt_of_ne_lastCounter {c : BitVec 16} (h : c ≠ Config.lastCounter) : c.toNat < 65535 := by
  unfold Config.lastCounter at h
  bv_omega

/-- Settles O50: waiting and the codes of decoding leave the counter, a reset clears it, an operation has its effect. -/
theorem counterNeverDecreases : Obligations.CounterNeverDecreases := by
  intro s t c hwf hctr hstep
  refine step_induction
    (P := fun s t => s.cmdCtr = some c → t.cmdCtr = some c ∨
      (c.toNat < 65535 ∧ t.cmdCtr = some (c + 1) ∧ t.ti = s.ti) ∨ t.cmdCtr = none)
    hstep ?wait ?reset ?undecoded ?op hctr
  case wait => exact .inl
  case reset => exact fun _ _ => .inr (.inr rfl)
  case undecoded => exact fun _ _ _ => .inl
  case op =>
    intro rest i e hctr
    refine (e.counter (hwf.withInputs rest) hctr).imp_right (Or.imp_left ?_)
    rintro ⟨hlast, hnext, hti⟩
    exact ⟨toNat_lt_of_ne_lastCounter hlast, hnext, hti⟩

/-! ### The session registers -/

/-- The registers that only a commit loads are as before or empty. -/
def NothingLoaded (s t : State) : Prop :=
  (t.sesEncKey = s.sesEncKey ∨ t.sesEncKey = none) ∧ (t.sesMacKey = s.sesMacKey ∨ t.sesMacKey = none) ∧
  (t.keyNo = s.keyNo ∨ t.keyNo = none) ∧ (t.ti = s.ti ∨ t.ti = none) ∧
  (t.authFirst = s.authFirst ∨ t.authFirst = false) ∧ (t.authNonFirst = s.authNonFirst ∨ t.authNonFirst = false)

theorem nothingLoaded_of_kept {s t : State} (hek : t.sesEncKey = s.sesEncKey) (hmk : t.sesMacKey = s.sesMacKey)
    (hkey : t.keyNo = s.keyNo) (hti : t.ti = s.ti) (hfirst : t.authFirst = s.authFirst)
    (hnonFirst : t.authNonFirst = s.authNonFirst) : NothingLoaded s t :=
  ⟨.inl hek, .inl hmk, .inl hkey, .inl hti, .inl hfirst, .inl hnonFirst⟩

theorem nothingLoaded_of_cleared {s t : State} (hek : t.sesEncKey = none) (hmk : t.sesMacKey = none)
    (hkey : t.keyNo = none) (hti : t.ti = s.ti ∨ t.ti = none) (hfirst : t.authFirst = false)
    (hnonFirst : t.authNonFirst = false) : NothingLoaded s t :=
  ⟨.inr hek, .inr hmk, .inr hkey, hti, .inr hfirst, .inr hnonFirst⟩

/-- Every effect but the commit of AUTH.FIN loads nothing, and every effect but SM.RSP's increment gives the counter no
value (R185). -/
theorem Effect.nothingLoaded {i : Instr} {s t : State} (e : Effect i s t)
    (h : ¬(i.opcode = .authFin ∧ t.result.map Result.rc = some .ok)) :
    NothingLoaded s t ∧ (i.opcode ≠ .smRsp → t.cmdCtr = s.cmdCtr ∨ t.cmdCtr = none) := by
  cases e with
  | answered outs => exact ⟨nothingLoaded_of_kept rfl rfl rfl rfl rfl rfl, fun _ => .inl rfl⟩
  | refused code hc always => exact ⟨nothingLoaded_of_kept rfl rfl rfl rfl rfl rfl, fun _ => .inl rfl⟩
  | precondition => exact ⟨nothingLoaded_of_kept rfl rfl rfl rfl rfl rfl, fun _ => .inl rfl⟩
  | cleared => exact ⟨nothingLoaded_of_cleared rfl rfl rfl (.inr rfl) rfl rfl, fun _ => .inr rfl⟩
  | errorSet p hi => exact ⟨nothingLoaded_of_kept rfl rfl rfl rfl rfl rfl, fun _ => .inl rfl⟩
  | started v n k hprior =>
    cases v with
    | first => exact ⟨nothingLoaded_of_cleared rfl rfl rfl (.inr rfl) rfl rfl, fun _ => .inr rfl⟩
    | nonFirst => exact ⟨nothingLoaded_of_cleared rfl rfl rfl (.inl rfl) rfl rfl, fun _ => .inl rfl⟩
  | challenged st body randB msg hi hphase => exact ⟨nothingLoaded_of_kept rfl rfl rfl rfl rfl rfl, fun _ => .inl rfl⟩
  | committed st body v ek mk n plain hi hvariant => exact absurd ⟨by rw [hi, Instr.opcode], rfl⟩ h
  | failedCleared st r hi hr => exact ⟨nothingLoaded_of_cleared rfl rfl rfl (.inr rfl) rfl rfl, fun _ => .inr rfl⟩
  | statusMirrored st hi => exact ⟨nothingLoaded_of_kept rfl rfl rfl rfl rfl rfl, fun _ => .inl rfl⟩
  | advanced st c r hi hop hc hlast hr => exact ⟨nothingLoaded_of_kept rfl rfl rfl rfl rfl rfl, fun hne => absurd hop hne⟩

/-- Settles O51, from the effects other than the commit. -/
theorem onlyAuthFinLoadsSession : Obligations.OnlyAuthFinLoadsSession := by
  intro i s t hexec hcommit
  obtain ⟨⟨hek, hmk, hkey, hti, hfirst, hnonFirst⟩, hctr⟩ := (exec_effect hexec).nothingLoaded hcommit
  exact ⟨hek, hmk, hkey, hti, hfirst, hnonFirst, hctr⟩

/-! ### LASTERR -/

/-- The operations R28 names, with PRECONDITION as what every gated operation may raise. -/
def MayWriteLastErr (i : Instr) (t : State) : Prop :=
  (∃ st body, i = .authChal st body) ∨ (∃ st body, i = .authFin st body) ∨ (∃ m st body, i = .smRsp m st body) ∨
    (∃ e, i = .ssSeterr e) ∨ t.result = some ⟨.precondition, []⟩

theorem TakesStatus.mayWriteLastErr {i : Instr} {st : StatusPair} (h : TakesStatus i st) (t : State) :
    MayWriteLastErr i t := by
  obtain ⟨body, hi⟩ | ⟨body, hi⟩ | ⟨mode, body, hi⟩ := h
  · exact .inl ⟨_, body, hi⟩
  · exact .inr (.inl ⟨_, body, hi⟩)
  · exact .inr (.inr (.inl ⟨mode, _, body, hi⟩))

/-- Every effect keeps LASTERR, or writes a value to it and is one of an operation that may (R28). -/
theorem Effect.lastErr {i : Instr} {s t : State} (e : Effect i s t) :
    t.lastErr = s.lastErr ∨ (t.lastErr.isSome = true ∧ MayWriteLastErr i t) := by
  cases e with
  | answered outs => exact .inl rfl
  | refused code hc always => exact .inl rfl
  | precondition => exact .inr ⟨rfl, .inr (.inr (.inr (.inr rfl)))⟩
  | cleared => exact .inl rfl
  | errorSet p hi => exact .inr ⟨rfl, .inr (.inr (.inr (.inl ⟨_, hi⟩)))⟩
  | started v n k hprior => cases v <;> exact .inl rfl
  | challenged st body randB msg hi hphase => exact .inr ⟨rfl, .inl ⟨_, body, hi⟩⟩
  | committed st body v ek mk n plain hi hvariant => cases v <;> exact .inr ⟨rfl, .inr (.inl ⟨_, body, hi⟩)⟩
  | failedCleared st r hi hr => exact .inr ⟨rfl, hi.mayWriteLastErr _⟩
  | statusMirrored st hi => exact .inr ⟨rfl, hi.mayWriteLastErr _⟩
  | advanced st c r hi hop hc hlast hr => exact .inr ⟨rfl, hi.mayWriteLastErr _⟩

/-- Settles O52: an effect that writes LASTERR writes a value to it. -/
theorem lastErrorOutlivesClearing : Obligations.LastErrorOutlivesClearing := by
  intro i s t hexec
  obtain hkept | ⟨hsome, hmay⟩ := (exec_effect hexec).lastErr
  · exact ⟨fun hs => by rw [hkept, hs], fun hne => absurd hkept hne⟩
  · exact ⟨fun _ => hsome, fun _ => hmay⟩

/-! ### Programming errors -/

/-- An effect whose record is a programming error is the refusal of the operands, the same in every state (R264). -/
theorem Effect.refused_always {i : Instr} {s t : State} (e : Effect i s t) {r : Result} (hr : t.result = some r)
    (hprog : r.rc.ProgrammingError) (u : State) : exec i u = .next (u.deliver r) := by
  cases e with
  | refused c hc always =>
    cases hr
    exact always u
  | failedCleared st q hi hq =>
    cases hr
    obtain ⟨-, hnot, -⟩ := hq
    exact absurd hprog hnot
  | advanced st c q hi hop hc hlast hq =>
    cases hr
    obtain hok | ⟨-, hnot, -⟩ := hq
    · exact absurd hprog (by rw [hok]; decide)
    · exact absurd hprog hnot
  | _ =>
    cases hr
    exact absurd hprog (by simp)

/-- Settles O53: the error is one of decoding, which looks at no state, or a refusal of the operands. -/
theorem programmingErrorsChangeNothing : Obligations.ProgrammingErrorsChangeNothing := by
  intro d s t r hstep hr hprog u
  rw [step_offer] at hstep ⊢
  obtain ⟨i, hd, hs⟩ | ⟨hd, hs⟩ | ⟨hd, hs⟩ := runDescriptor_cases d s
  · rw [runDescriptor_of_decode hd, (exec_effect (hs ▸ hstep)).refused_always hr hprog u, State.deliver]
  · cases hs.symm.trans hstep
    cases hr
    rw [runDescriptor_of_illegalOp hd, State.deliver]
  · cases hs.symm.trans hstep
    cases hr
    rw [runDescriptor_of_badDescriptor hd, State.deliver]

end Sys2Proof.Machine
end

section
/-! PROOFS. Two runs of one operation: issued twice (20_memory.md R60), on states that differ in secrets (10_state.md R34,
R40), on states that differ in the coming draws (43_authentication.md R178). -/

namespace Sys2Proof.Machine

open Sys2Proof

/-! ### Issued twice -/

/-- No operation reads the result path (log 4). -/
theorem exec_deliver (i : Instr) (s : State) (q : Result) : exec i (s.deliver q) = exec i s := by
  cases i with
  | authStart variant keyNo authKey =>
    have opened (v : Variant) (n : Fin 15) (k : Block) (outs : List Bytes) :
        finish outs (((s.deliver q).clearForStart v).openHandshake v n k) =
          finish outs ((s.clearForStart v).openHandshake v n k) := by cases v <;> rfl
    simp only [exec_authStart, execAuthStart, opened]
    rfl
  | authFin status body =>
    have committed (st : StatusPair) (v : Variant) (ek mk : Block) (n : Fin 15) (plain : Bytes) (outs : List Bytes) :
        finish outs (((s.deliver q).setLastErr st).commitSession v ek mk n plain) =
          finish outs ((s.setLastErr st).commitSession v ek mk n plain) := by cases v <;> rfl
    simp only [exec_authFin, execAuthFin, committed]
    rfl
  | _ => rfl

/-- Two writes to LASTERR: the later one stands. -/
theorem State.setLastErr_setLastErr (s : State) (p q : StatusPair) : (s.setLastErr p).setLastErr q = s.setLastErr q := rfl

/-- An operation that put a record on its state and nothing else puts the same record on it again. -/
theorem exec_again_of_deliver {i : Instr} {s t : State} (h : exec i s = .next t) {r : Result} (ht : t = s.deliver r) :
    exec i t = .next t := by
  rw [ht, exec_deliver, h, ht]

/-- A secured operation that changes no register answers again; refused at the closed gate, it writes LASTERR again. -/
theorem exec_again_of_gatedAnswer {i : Instr} {s t : State} (h : exec i s = .next t)
    (hclosed : ∀ u : State, u.authenticated = false → exec i u = raisePrecondition u) (hanswer : GatedAnswer s t) :
    exec i t = .next t := by
  obtain ⟨hauth, rfl⟩ | ⟨-, out, ht⟩ := hanswer
  · rw [exec_deliver, hclosed (s.setLastErr _) hauth, raisePrecondition_eq, State.setLastErr_setLastErr]
  · exact exec_again_of_deliver h ht

theorem AnswersAlways.again {op : State → StepOutcome} (hop : AnswersAlways op) {s t : State} (h : op s = .next t) :
    op t = .next t := by
  obtain ⟨r, -, always⟩ := hop
  cases (always s).symm.trans h
  rw [always, State.deliver_deliver]

/-- SM.CMD refuses its operands in every state, or meets the gate in every state (R205). -/
theorem execSmCmd_closed (cmdCode header plaintext : Bytes) :
    RaisesAlways (execSmCmd cmdCode header plaintext) ∨
      ∀ s : State, s.authenticated = false → execSmCmd cmdCode header plaintext s = raisePrecondition s := by
  by_cases hcode : cmdCode.length = 1
  · obtain ⟨cc, rfl⟩ := List.length_eq_one_iff.mp hcode
    by_cases hblocks : plaintext.length % 16 = 0
    · by_cases hlong : header.length + plaintext.length + Config.macLen > Config.maxField
      · exact .inl ⟨.operandLength, by decide, fun s => by
          rw [execSmCmd, withByte_singleton, withCipherData_of_length hblocks, if_pos hlong, raise_eq]⟩
      · exact .inr fun s hauth => by
          rw [execSmCmd, withByte_singleton, withCipherData_of_length hblocks, if_neg hlong, gated_closed hauth]
    · exact .inl ⟨.operandLength, by decide, fun s => by
        rw [execSmCmd, withByte_singleton, withCipherData_bad hblocks, raise_eq]⟩
  · exact .inl ⟨.operandLength, by decide, fun s => by rw [execSmCmd, withByte_bad hcode, raise_eq]⟩

theorem execSmIvc_closed {s : State} (h : s.authenticated = false) : execSmIvc s = raisePrecondition s := gated_closed h _

theorem execSmIvr_closed {s : State} (h : s.authenticated = false) : execSmIvr s = raisePrecondition s := gated_closed h _

theorem smCmd_again {cmdCode header plaintext : Bytes} {s t : State}
    (h : exec (.smCmd cmdCode header plaintext) s = .next t) : exec (.smCmd cmdCode header plaintext) t = .next t := by
  obtain hraises | hclosed := execSmCmd_closed cmdCode header plaintext
  · exact hraises.answersAlways.again h
  obtain hraises | hform := execSmCmd_form cmdCode header plaintext
  · exact hraises.answersAlways.again h
  exact exec_again_of_gatedAnswer h hclosed (hform s t h)

/-- SS.SETERR writes the same pair again. -/
theorem ssSeterr_again {code : Bytes} {s t : State} (h : exec (.ssSeterr code) s = .next t) :
    exec (.ssSeterr code) t = .next t := by
  obtain hraises | ⟨p, -, hform⟩ := execSsSeterr_form code
  · exact hraises.answersAlways.again h
  · rw [exec_ssSeterr, hform, finish_eq] at h
    cases h
    rw [exec_deliver, exec_ssSeterr, hform, finish_eq, State.setLastErr_setLastErr]

/-- Settles O54: the four operations left out are those that move a handshake or the counter. -/
theorem repeatedOperationsIdempotent : Obligations.RepeatedOperationsIdempotent := by
  intro i s t h hstart hchal hfin hrsp
  cases i with
  | cbcEnc key iv data => exact (execCbcEnc_always key iv data).again h
  | cbcDec key iv data => exact (execCbcDec_always key iv data).again h
  | cmacGen key msg => exact (execCmacGen_always key msg).again h
  | macTrunc tag => exact (execMacTrunc_always tag).again h
  | kdfSes authKey randA randB => exact (execKdfSes_always authKey randA randB).again h
  | padM2 data => exact (execPadM2_always data).again h
  | ssClear =>
    rw [exec_ssClear, execSsClear_eq] at h
    cases h
    rw [exec_deliver, exec_ssClear, execSsClear_eq, State.clearSession_clearSession]
  | ssStatus => exact exec_again_of_deliver h (Host.Outcome.next.inj (h.symm.trans (execSsStatus_eq s)))
  | ssSeterr code => exact ssSeterr_again h
  | authStart variant keyNo authKey => exact absurd rfl hstart
  | authChal status body => exact absurd rfl hchal
  | authFin status body => exact absurd rfl hfin
  | smIvc => exact exec_again_of_gatedAnswer h (fun _ => execSmIvc_closed) (execSmIvc_next h)
  | smIvr => exact exec_again_of_gatedAnswer h (fun _ => execSmIvr_closed) (execSmIvr_next h)
  | smCmd cmdCode header plaintext => exact smCmd_again h
  | smRsp mode status body => exact absurd rfl hrsp

/-! ### States that differ in secrets -/

theorem State.SameButSecrets.deliver {s u : State} (h : s.SameButSecrets u) (r : Result) :
    (s.deliver r).SameButSecrets (u.deliver r) := { h with rest := congrArg (State.deliver · r) h.rest }

theorem State.SameButSecrets.setLastErr {s u : State} (h : s.SameButSecrets u) (p : StatusPair) :
    (s.setLastErr p).SameButSecrets (u.setLastErr p) := { h with rest := congrArg (State.setLastErr · p) h.rest }

/-- What both clear actions leave of the secrets is nothing, so the cleared states agree where the states did. -/
theorem State.SameButSecrets.clearSession {s u : State} (h : s.SameButSecrets u) :
    s.clearSession.SameButSecrets u.clearSession := by
  have rest := congrArg State.clearSession h.rest
  exact ⟨rfl, rfl, rfl, rfl, rfl, rest⟩

theorem State.SameButSecrets.clearForNonFirst {s u : State} (h : s.SameButSecrets u) :
    s.clearForNonFirst.SameButSecrets u.clearForNonFirst := by
  have rest := congrArg State.clearForNonFirst h.rest
  exact ⟨rfl, rfl, rfl, rfl, rfl, rest⟩

theorem State.SameButSecrets.clearForStart {s u : State} (h : s.SameButSecrets u) (v : Variant) :
    (s.clearForStart v).SameButSecrets (u.clearForStart v) := by
  cases v with
  | first => exact h.clearSession
  | nonFirst => exact h.clearForNonFirst

theorem State.SameButSecrets.openHandshake {s u : State} (h : s.SameButSecrets u) (v : Variant) (n : Fin 15) (k : Block) :
    (s.openHandshake v n k).SameButSecrets (u.openHandshake v n k) :=
  { h with hsAuthKey := rfl, rest := congrArg (State.openHandshake · v n k) h.rest }

/-- SS.STATUS shows of the keys only whether they are valid (R34, R158). -/
theorem State.SameButSecrets.statusBytes {s u : State} (h : s.SameButSecrets u) :
    Machine.statusBytes s = Machine.statusBytes u := by
  have keys : (s.sesEncKey.isSome && s.sesMacKey.isSome) = (u.sesEncKey.isSome && u.sesMacKey.isSome) := by
    rw [h.sesEncKey, h.sesMacKey]
  rw [← h.rest]
  simp only [Machine.statusBytes, statusFlags]
  rw [keys]

theorem State.SameButSecrets.hasPriorFirst {s u : State} (h : s.SameButSecrets u) : s.hasPriorFirst = u.hasPriorFirst := by
  rw [← h.rest]
  rfl

/-- Two runs on states that differ in secrets: the same record, and next states that differ in secrets only. -/
def SecretsHidden (op : State → StepOutcome) : Prop :=
  ∀ s u t : State, s.SameButSecrets u → op s = .next t →
    ∃ v : State, op u = .next v ∧ v.result = t.result ∧ t.SameButSecrets v

/-- An operation that does to every state the same update, which hides secrets, and then delivers a record it has from
what is seen of the state. -/
theorem secretsHidden_of_update {op : State → StepOutcome} (f : State → State) (r : State → Result)
    (hop : ∀ s, op s = .next ((f s).deliver (r s)))
    (hf : ∀ s u, s.SameButSecrets u → (f s).SameButSecrets (f u) ∧ r s = r u) : SecretsHidden op := by
  intro s u t hsu ht
  cases (hop s).symm.trans ht
  obtain ⟨hsame, hrec⟩ := hf s u hsu
  exact ⟨_, hop u, congrArg some hrec.symm, hrec ▸ hsame.deliver (r s)⟩

theorem AnswersAlways.secretsHidden {op : State → StepOutcome} (h : AnswersAlways op) : SecretsHidden op := by
  obtain ⟨r, -, always⟩ := h
  exact secretsHidden_of_update id (fun _ => r) always fun _ _ hsu => ⟨hsu, rfl⟩

theorem execSsSeterr_secretsHidden (code : Bytes) : SecretsHidden (execSsSeterr code) := by
  obtain hraises | ⟨p, -, hform⟩ := execSsSeterr_form code
  · exact hraises.answersAlways.secretsHidden
  · exact secretsHidden_of_update (State.setLastErr · p) (fun _ => ⟨.ok, []⟩) hform fun _ _ hsu => ⟨hsu.setLastErr p, rfl⟩

/-- AUTH.START writes the key it was given over the one that was there (R171). -/
theorem execAuthStart_secretsHidden (variant keyNo authKey : Bytes) :
    SecretsHidden (execAuthStart variant keyNo authKey) := by
  obtain hraises | ⟨v, n, k, hform⟩ := execAuthStart_form variant keyNo authKey
  · exact hraises.answersAlways.secretsHidden
  · intro s u t hsu ht
    rw [hform] at ht ⊢
    rw [← hsu.hasPriorFirst]
    split at ht
    next hrefused =>
      cases ht
      rw [if_pos hrefused]
      exact ⟨_, rfl, rfl, (hsu.setLastErr _).deliver _⟩
    next hopen =>
      cases ht
      rw [if_neg hopen]
      exact ⟨_, rfl, rfl, ((hsu.clearForStart v).openHandshake v n k).deliver _⟩

/-- Settles O55: what the operations that are left read of the state is not secret, and they keep the rest alike. -/
theorem secretsNotObservable : Obligations.SecretsNotObservable := by
  intro i s u t hchal hfin hivc hivr hcmd hrsp hsu ht
  have hidden : SecretsHidden (exec i) := by
    cases i with
    | cbcEnc key iv data => exact (execCbcEnc_always key iv data).secretsHidden
    | cbcDec key iv data => exact (execCbcDec_always key iv data).secretsHidden
    | cmacGen key msg => exact (execCmacGen_always key msg).secretsHidden
    | macTrunc tag => exact (execMacTrunc_always tag).secretsHidden
    | kdfSes authKey randA randB => exact (execKdfSes_always authKey randA randB).secretsHidden
    | padM2 data => exact (execPadM2_always data).secretsHidden
    | ssClear =>
      exact secretsHidden_of_update State.clearSession _ execSsClear_eq fun _ _ hsu => ⟨hsu.clearSession, rfl⟩
    | ssStatus =>
      exact secretsHidden_of_update id (fun s => ⟨.ok, [statusBytes s]⟩) execSsStatus_eq
        fun _ _ hsu => ⟨hsu, by rw [hsu.statusBytes]⟩
    | ssSeterr code => exact execSsSeterr_secretsHidden code
    | authStart variant keyNo authKey => exact execAuthStart_secretsHidden variant keyNo authKey
    | authChal status body => exact absurd rfl hchal
    | authFin status body => exact absurd rfl hfin
    | smIvc => exact absurd rfl hivc
    | smIvr => exact absurd rfl hivr
    | smCmd cmdCode header plaintext => exact absurd rfl hcmd
    | smRsp mode status body => exact absurd rfl hrsp
  exact hidden s u t hsu ht

end Sys2Proof.Machine
end

section
/-! PROOFS. The draw (43_authentication.md R178): outside AUTH.CHAL every operation commutes with replacing what the random
source is going to deliver, and AUTH.CHAL does so on each of its failures. -/

namespace Sys2Proof.Machine

open Sys2Proof

/-- The state with another random source. -/
def State.withDraws (s : State) (ds : List Block) (n : Nat) : State := { s with draws := ds, drawCount := n }

/-- An outcome with another random source in its next state. -/
def outcomeWithDraws (ds : List Block) (n : Nat) : StepOutcome → StepOutcome
  | .next t => .next (t.withDraws ds n)
  | .fault f => .fault f
  | .refused r => .refused r

/-- The draws have no effect on the operation in this state: it commutes with replacing them. -/
def DrawsUnread (op : State → StepOutcome) (s : State) : Prop :=
  ∀ (ds : List Block) (n : Nat), op (s.withDraws ds n) = outcomeWithDraws ds n (op s)

section
variable {ds : List Block} {n : Nat} {s : State}

@[simp] theorem outcomeWithDraws_next (t : State) : outcomeWithDraws ds n (.next t) = .next (t.withDraws ds n) := rfl

@[simp] theorem withDraws_sesEncKey : (s.withDraws ds n).sesEncKey = s.sesEncKey := rfl
@[simp] theorem withDraws_sesMacKey : (s.withDraws ds n).sesMacKey = s.sesMacKey := rfl
@[simp] theorem withDraws_cmdCtr : (s.withDraws ds n).cmdCtr = s.cmdCtr := rfl
@[simp] theorem withDraws_ti : (s.withDraws ds n).ti = s.ti := rfl
@[simp] theorem withDraws_authenticated : (s.withDraws ds n).authenticated = s.authenticated := rfl
@[simp] theorem withDraws_hasPriorFirst : (s.withDraws ds n).hasPriorFirst = s.hasPriorFirst := rfl
@[simp] theorem withDraws_hsPhase : (s.withDraws ds n).hsPhase = s.hsPhase := rfl
@[simp] theorem withDraws_hsVariant : (s.withDraws ds n).hsVariant = s.hsVariant := rfl
@[simp] theorem withDraws_hsKeyNo : (s.withDraws ds n).hsKeyNo = s.hsKeyNo := rfl
@[simp] theorem withDraws_hsAuthKey : (s.withDraws ds n).hsAuthKey = s.hsAuthKey := rfl
@[simp] theorem withDraws_hsRndA : (s.withDraws ds n).hsRndA = s.hsRndA := rfl
@[simp] theorem withDraws_hsRndB : (s.withDraws ds n).hsRndB = s.hsRndB := rfl

@[simp] theorem withDraws_deliver (r : Result) : (s.withDraws ds n).deliver r = (s.deliver r).withDraws ds n := rfl

@[simp] theorem withDraws_setLastErr (p : StatusPair) :
    (s.withDraws ds n).setLastErr p = (s.setLastErr p).withDraws ds n := rfl

@[simp] theorem withDraws_setCmdCtr (c : BitVec 16) :
    (s.withDraws ds n).setCmdCtr c = (s.setCmdCtr c).withDraws ds n := rfl

@[simp] theorem withDraws_clearSession : (s.withDraws ds n).clearSession = s.clearSession.withDraws ds n := rfl

@[simp] theorem withDraws_clearForStart (v : Variant) :
    (s.withDraws ds n).clearForStart v = (s.clearForStart v).withDraws ds n := by cases v <;> rfl

@[simp] theorem withDraws_openHandshake (v : Variant) (k : Fin 15) (key : Block) :
    (s.withDraws ds n).openHandshake v k key = (s.openHandshake v k key).withDraws ds n := rfl

@[simp] theorem withDraws_commitSession (v : Variant) (ek mk : Block) (k : Fin 15) (plain : Bytes) :
    (s.withDraws ds n).commitSession v ek mk k plain = (s.commitSession v ek mk k plain).withDraws ds n := by
  cases v <;> rfl

@[simp] theorem outcomeWithDraws_readReg {α : Type} (r : RegName) (reg : Option α) (body : α → StepOutcome) :
    outcomeWithDraws ds n (readReg r reg body) = readReg r reg fun v => outcomeWithDraws ds n (body v) := by
  cases reg <;> rfl

@[simp] theorem outcomeWithDraws_ite (p : Prop) [Decidable p] (o o' : StepOutcome) :
    outcomeWithDraws ds n (if p then o else o') = if p then outcomeWithDraws ds n o else outcomeWithDraws ds n o' :=
  apply_ite _ _ _ _

@[simp] theorem outcomeWithDraws_gated (body : StepOutcome) :
    outcomeWithDraws ds n (gated s body) = gated (s.withDraws ds n) (outcomeWithDraws ds n body) :=
  outcomeWithDraws_ite _ _ _

@[simp] theorem outcomeWithDraws_withByte (f : Bytes) (body : Byte → StepOutcome) :
    outcomeWithDraws ds n (withByte f s body) = withByte f (s.withDraws ds n) fun b => outcomeWithDraws ds n (body b) := by
  unfold withByte
  split <;> rfl

@[simp] theorem outcomeWithDraws_withPair (f : Bytes) (body : StatusPair → StepOutcome) :
    outcomeWithDraws ds n (withPair f s body) = withPair f (s.withDraws ds n) fun p => outcomeWithDraws ds n (body p) := by
  unfold withPair
  split <;> rfl

@[simp] theorem outcomeWithDraws_withCipherData (f : Bytes) (body : Bytes → StepOutcome) :
    outcomeWithDraws ds n (withCipherData f s body) =
      withCipherData f (s.withDraws ds n) fun b => outcomeWithDraws ds n (body b) := by
  unfold withCipherData
  split <;> rfl

@[simp] theorem outcomeWithDraws_withMode (b : Byte) (body : RespMode → StepOutcome) :
    outcomeWithDraws ds n (withMode b s body) = withMode b (s.withDraws ds n) fun m => outcomeWithDraws ds n (body m) := by
  unfold withMode
  split <;> rfl

end

/-! ### Operation by operation -/

theorem AnswersAlways.drawsUnread {op : State → StepOutcome} (h : AnswersAlways op) (s : State) : DrawsUnread op s := by
  obtain ⟨r, -, always⟩ := h
  intro ds n
  rw [always, always, outcomeWithDraws_next, withDraws_deliver]

theorem execSsClear_drawsUnread (s : State) : DrawsUnread execSsClear s := fun _ _ => rfl

theorem execSsStatus_drawsUnread (s : State) : DrawsUnread execSsStatus s := fun _ _ => rfl

theorem execSsSeterr_drawsUnread (code : Bytes) (s : State) : DrawsUnread (execSsSeterr code) s := by
  intro ds n
  simp [execSsSeterr]

theorem execAuthStart_drawsUnread (variant keyNo authKey : Bytes) (s : State) :
    DrawsUnread (execAuthStart variant keyNo authKey) s := by
  obtain hraises | ⟨v, k, key, hform⟩ := execAuthStart_form variant keyNo authKey
  · exact hraises.answersAlways.drawsUnread s
  · intro ds n
    simp [hform]

theorem execAuthFin_drawsUnread (status body : Bytes) (s : State) : DrawsUnread (execAuthFin status body) s := by
  intro ds n
  simp [execAuthFin]

theorem execSmIvc_drawsUnread (s : State) : DrawsUnread execSmIvc s := by
  intro ds n
  simp [execSmIvc]

theorem execSmIvr_drawsUnread (s : State) : DrawsUnread execSmIvr s := by
  intro ds n
  simp [execSmIvr]

theorem execSmCmd_drawsUnread (cmdCode header plaintext : Bytes) (s : State) :
    DrawsUnread (execSmCmd cmdCode header plaintext) s := by
  intro ds n
  simp [execSmCmd]

theorem verifyResponse_drawsUnread (m : RespMode) (body : Bytes) (c : BitVec 16) (s : State) :
    DrawsUnread (verifyResponse m body c) s := by
  intro ds n
  cases m <;> simp [verifyResponse]

theorem execSmRsp_drawsUnread (mode status body : Bytes) (s : State) : DrawsUnread (execSmRsp mode status body) s := by
  intro ds n
  simp [execSmRsp, verifyResponse_drawsUnread _ _ _ _ ds n]

/-- AUTH.CHAL out of turn is refused with PRECONDITION (R175, R265). -/
theorem execAuthChal_outOfTurn (st : StatusPair) (body : Bytes) {s : State} (h : s.hsPhase ≠ .waitRndB) :
    execAuthChal st.toBytes body s = .next ((s.setLastErr Config.precondErrcode).deliver ⟨.precondition, []⟩) := by
  rw [execAuthChal, withPair_toBytes, if_pos h, raisePrecondition_eq]

/-- AUTH.CHAL reads and consumes the draw on its OK path only (R178). -/
theorem execAuthChal_draws {status body : Bytes} {s t : State} (h : execAuthChal status body s = .next t) :
    DrawsUnread (execAuthChal status body) s ∨
      (t.result.map Result.rc = some .ok ∧ t.draws = s.draws.tail ∧ t.drawCount = s.drawCount + 1) := by
  obtain hraises | ⟨st, rfl, hform⟩ := execAuthChal_form status body
  · exact .inl (hraises.answersAlways.drawsUnread s)
  · obtain ⟨hturn, -⟩ | ⟨hphase, r, -, -, -, hfails, -⟩ | ⟨-, k, -, rfl⟩ := hform s t h
    · refine .inl fun ds n => ?_
      rw [execAuthChal_outOfTurn st body hturn, execAuthChal_outOfTurn st body (s := s.withDraws ds n) hturn]
      rfl
    · refine .inl fun ds n => ?_
      rw [hfails s hphase, hfails (s.withDraws ds n) hphase]
      rfl
    · exact .inr ⟨rfl, rfl, rfl⟩

/-- Outside AUTH.CHAL no operation reads the draws. -/
theorem exec_drawsUnread {i : Instr} (hi : i.opcode ≠ .authChal) (s : State) : DrawsUnread (exec i) s := by
  cases i with
  | cbcEnc key iv data => exact (execCbcEnc_always key iv data).drawsUnread s
  | cbcDec key iv data => exact (execCbcDec_always key iv data).drawsUnread s
  | cmacGen key msg => exact (execCmacGen_always key msg).drawsUnread s
  | macTrunc tag => exact (execMacTrunc_always tag).drawsUnread s
  | kdfSes authKey randA randB => exact (execKdfSes_always authKey randA randB).drawsUnread s
  | padM2 data => exact (execPadM2_always data).drawsUnread s
  | ssClear => exact execSsClear_drawsUnread s
  | ssStatus => exact execSsStatus_drawsUnread s
  | ssSeterr code => exact execSsSeterr_drawsUnread code s
  | authStart variant keyNo authKey => exact execAuthStart_drawsUnread variant keyNo authKey s
  | authChal status body => exact absurd rfl hi
  | authFin status body => exact execAuthFin_drawsUnread status body s
  | smIvc => exact execSmIvc_drawsUnread s
  | smIvr => exact execSmIvr_drawsUnread s
  | smCmd cmdCode header plaintext => exact execSmCmd_drawsUnread cmdCode header plaintext s
  | smRsp mode status body => exact execSmRsp_drawsUnread mode status body s

/-- An operation that does not read the draws does not consume them: with the state's own draws it would put them back. -/
theorem DrawsUnread.kept {op : State → StepOutcome} {s t : State} (hop : DrawsUnread op s) (h : op s = .next t) :
    t.draws = s.draws ∧ t.drawCount = s.drawCount ∧
      ∀ (ds : List Block) (n : Nat), op (s.withDraws ds n) = .next (t.withDraws ds n) := by
  have replaced (ds : List Block) (n : Nat) : op (s.withDraws ds n) = .next (t.withDraws ds n) := by
    rw [hop ds n, h, outcomeWithDraws_next]
  have same : t = t.withDraws s.draws s.drawCount :=
    Host.Outcome.next.inj (h.symm.trans (replaced s.draws s.drawCount))
  have hdraws := congrArg State.draws same
  have hcount := congrArg State.drawCount same
  exact ⟨hdraws, hcount, replaced⟩

/-- Settles O56: AUTH.CHAL by its outcomes, every other operation by not reading the draws. -/
theorem drawConsumedOnlyOnOk : Obligations.DrawConsumedOnlyOnOk := by
  intro i s t h
  by_cases hi : i.opcode = .authChal
  · obtain ⟨status, body, rfl⟩ : ∃ status body, i = .authChal status body := by
      cases i <;> cases hi
      exact ⟨_, _, rfl⟩
    obtain hunread | ⟨hok, hdraws, hcount⟩ := execAuthChal_draws h
    · exact .inl (hunread.kept h)
    · exact .inr ⟨hi, hok, hdraws, hcount⟩
  · exact .inl ((exec_drawsUnread hi s).kept h)

end Sys2Proof.Machine
end

section
/-! PROOFS. The AES block functions (40_cbc_cipher.md R102 to R108): the substitution boxes, the two column mixings, the rounds
and the two block functions are inverse to each other. -/

namespace Sys2Proof.Machine

open Sys2Proof

/-! ### The boxes -/

/-- The field inverse of a byte, and 0 for 0: what the box was made of, read back from the box (R103). -/
def fieldInverse (a : Byte) : Byte :=
  (sbox a).rotateLeft 1 ^^^ (sbox a).rotateLeft 3 ^^^ (sbox a).rotateLeft 6 ^^^ 0x05#8

theorem invSbox_sbox : ∀ a : Byte, invSbox (sbox a) = a := by decide +kernel

theorem sbox_invSbox : ∀ a : Byte, sbox (invSbox a) = a := by decide +kernel

theorem fieldInverse_spec : ∀ a : Byte, if a = 0 then fieldInverse a = 0 else gmul a (fieldInverse a) = 0x01 := by
  decide +kernel

/-- The formula of R103. -/
theorem sbox_eq_affine : ∀ a : Byte, sbox a =
    fieldInverse a ^^^ (fieldInverse a).rotateLeft 1 ^^^ (fieldInverse a).rotateLeft 2 ^^^
      (fieldInverse a).rotateLeft 3 ^^^ (fieldInverse a).rotateLeft 4 ^^^ 0x63#8 := by decide +kernel

/-- Settles O11: the three facts over the 256 bytes, with the field inverse read back from the box. -/
theorem substitutionBoxes : Obligations.SubstitutionBoxes := fun a =>
  ⟨invSbox_sbox a, sbox_invSbox a, fieldInverse a, fieldInverse_spec a, sbox_eq_affine a⟩

@[simp] theorem invSubBytes_subBytes (s : Block) : invSubBytes (subBytes s) = s := by
  simp [invSubBytes, subBytes, invSubWord, subWord, invSbox_sbox]

@[simp] theorem subBytes_invSubBytes (s : Block) : subBytes (invSubBytes s) = s := by
  simp [invSubBytes, subBytes, invSubWord, subWord, sbox_invSbox]

@[simp] theorem invShiftRows_shiftRows (s : Block) : invShiftRows (shiftRows s) = s := rfl

@[simp] theorem shiftRows_invShiftRows (s : Block) : shiftRows (invShiftRows s) = s := rfl

/-! ### The mixing of columns -/

theorem xtime_xor (a b : Byte) : xtime (a ^^^ b) = xtime a ^^^ xtime b := by
  have cancel (x y z : Byte) : (x ^^^ z) ^^^ (y ^^^ z) = x ^^^ y := by
    rw [BitVec.xor_comm y z, BitVec.xor_assoc, ← BitVec.xor_assoc z, BitVec.xor_self, BitVec.zero_xor]
  cases ha : a.msb <;> cases hb : b.msb <;>
    simp only [xtime, BitVec.msb_xor, ha, hb, BitVec.shiftLeft_xor_distrib, cancel, Bool.xor_self, Bool.xor_true,
      Bool.xor_false, Bool.not_false, if_true, Bool.false_eq_true, if_false]
  · ac_rfl
  · ac_rfl

theorem xtimeIter_xor (n : Nat) (a b : Byte) : xtimeIter n (a ^^^ b) = xtimeIter n a ^^^ xtimeIter n b := by
  induction n generalizing a b with
  | zero => rfl
  | succ n ih => rw [xtimeIter, xtimeIter, xtimeIter, xtime_xor, ih]

/-- The field product over the bits in `l`, added to `acc`. -/
def addProduct (a b : Byte) (l : List Nat) (acc : Byte) : Byte :=
  l.foldl (fun acc i => if b.getLsbD i then acc ^^^ xtimeIter i a else acc) acc

/-- The field product is that over all eight bits (R102). -/
theorem gmul_eq_addProduct (a b : Byte) : gmul a b = addProduct a b (List.range 8) 0 := rfl

theorem addProduct_cons (a b : Byte) (i : Nat) (l : List Nat) (acc : Byte) :
    addProduct a b (i :: l) acc = addProduct a b l (if b.getLsbD i then acc ^^^ xtimeIter i a else acc) := rfl

theorem addProduct_xor (a b c : Byte) (l : List Nat) (x y : Byte) :
    addProduct (a ^^^ b) c l (x ^^^ y) = addProduct a c l x ^^^ addProduct b c l y := by
  induction l generalizing x y with
  | nil => rfl
  | cons i l ih =>
    rw [addProduct_cons, addProduct_cons, addProduct_cons, ← ih, xtimeIter_xor]
    congr 1
    split
    · ac_rfl
    · rfl

/-- The field product distributes over exclusive-or (R102). -/
theorem gmul_xor_left (a b c : Byte) : gmul (a ^^^ b) c = gmul a c ^^^ gmul b c := by
  rw [gmul_eq_addProduct, gmul_eq_addProduct, gmul_eq_addProduct]
  exact addProduct_xor a b c (List.range 8) 0 0

/-- A turned column is mixed to the turned mixed column: every row has the same coefficients. -/
theorem mixColumn_rotWord (a : Quad) : mixColumn (rotWord a) = rotWord (mixColumn a) := by
  simp only [mixColumn, rotWord, Quad.mk.injEq]
  refine ⟨?_, ?_, ?_, ?_⟩ <;> ac_rfl

theorem invMixColumn_rotWord (a : Quad) : invMixColumn (rotWord a) = rotWord (invMixColumn a) := by
  simp only [invMixColumn, rotWord, Quad.mk.injEq]
  refine ⟨?_, ?_, ?_, ?_⟩ <;> ac_rfl

/-- A map of columns that turns with them is the identity when it is on the first byte. -/
theorem eq_self_of_rotWord {f : Quad → Quad} (hrot : ∀ a, f (rotWord a) = rotWord (f a)) (hfirst : ∀ a, (f a).b0 = a.b0)
    (a : Quad) : f a = a := by
  have second := hfirst (rotWord a)
  have third := hfirst (rotWord (rotWord a))
  have fourth := hfirst (rotWord (rotWord (rotWord a)))
  simp only [hrot] at second third fourth
  calc f a = ⟨(f a).b0, (f a).b1, (f a).b2, (f a).b3⟩ := rfl
    _ = a := by rw [hfirst, show (f a).b1 = a.b1 from second, show (f a).b2 = a.b2 from third,
      show (f a).b3 = a.b3 from fourth]

/-- The products of the two rows of coefficients: 1 for a byte on itself, 0 for a byte on another. -/
theorem mixing_coefficients : ∀ a : Byte,
    gmul (gmul a 0x02) 0x0E ^^^ gmul a 0x0B ^^^ gmul a 0x0D ^^^ gmul (gmul a 0x03) 0x09 = a ∧
    gmul (gmul a 0x03) 0x0E ^^^ gmul (gmul a 0x02) 0x0B ^^^ gmul a 0x0D ^^^ gmul a 0x09 = 0#8 ∧
    gmul a 0x0E ^^^ gmul (gmul a 0x03) 0x0B ^^^ gmul (gmul a 0x02) 0x0D ^^^ gmul a 0x09 = 0#8 ∧
    gmul a 0x0E ^^^ gmul a 0x0B ^^^ gmul (gmul a 0x03) 0x0D ^^^ gmul (gmul a 0x02) 0x09 = 0#8 := by decide +kernel

theorem unmixing_coefficients : ∀ a : Byte,
    gmul (gmul a 0x0E) 0x02 ^^^ gmul (gmul a 0x09) 0x03 ^^^ gmul a 0x0D ^^^ gmul a 0x0B = a ∧
    gmul (gmul a 0x0B) 0x02 ^^^ gmul (gmul a 0x0E) 0x03 ^^^ gmul a 0x09 ^^^ gmul a 0x0D = 0#8 ∧
    gmul (gmul a 0x0D) 0x02 ^^^ gmul (gmul a 0x0B) 0x03 ^^^ gmul a 0x0E ^^^ gmul a 0x09 = 0#8 ∧
    gmul (gmul a 0x09) 0x02 ^^^ gmul (gmul a 0x0D) 0x03 ^^^ gmul a 0x0B ^^^ gmul a 0x0E = 0#8 := by decide +kernel

/-- The rows of a four-by-four sum are its columns: sixteen bytes, summed up either way. -/
theorem xor_transpose (p0 p1 p2 p3 q0 q1 q2 q3 r0 r1 r2 r3 u0 u1 u2 u3 : Byte) :
    (p0 ^^^ p1 ^^^ p2 ^^^ p3) ^^^ (q0 ^^^ q1 ^^^ q2 ^^^ q3) ^^^ (r0 ^^^ r1 ^^^ r2 ^^^ r3) ^^^ (u0 ^^^ u1 ^^^ u2 ^^^ u3) =
      (p0 ^^^ q0 ^^^ r0 ^^^ u0) ^^^ (p1 ^^^ q1 ^^^ r1 ^^^ u1) ^^^ (p2 ^^^ q2 ^^^ r2 ^^^ u2) ^^^
        (p3 ^^^ q3 ^^^ r3 ^^^ u3) := by
  ac_rfl

theorem invMixColumn_mixColumn_b0 (a : Quad) : (invMixColumn (mixColumn a)).b0 = a.b0 := by
  obtain ⟨own, -, -, -⟩ := mixing_coefficients a.b0
  obtain ⟨-, other1, -, -⟩ := mixing_coefficients a.b1
  obtain ⟨-, -, other2, -⟩ := mixing_coefficients a.b2
  obtain ⟨-, -, -, other3⟩ := mixing_coefficients a.b3
  simp only [invMixColumn, mixColumn, gmul_xor_left]
  rw [xor_transpose, own, other1, other2, other3, BitVec.xor_zero, BitVec.xor_zero, BitVec.xor_zero]

theorem mixColumn_invMixColumn_b0 (a : Quad) : (mixColumn (invMixColumn a)).b0 = a.b0 := by
  obtain ⟨own, -, -, -⟩ := unmixing_coefficients a.b0
  obtain ⟨-, other1, -, -⟩ := unmixing_coefficients a.b1
  obtain ⟨-, -, other2, -⟩ := unmixing_coefficients a.b2
  obtain ⟨-, -, -, other3⟩ := unmixing_coefficients a.b3
  simp only [invMixColumn, mixColumn, gmul_xor_left]
  rw [xor_transpose, own, other1, other2, other3, BitVec.xor_zero, BitVec.xor_zero, BitVec.xor_zero]

theorem invMixColumn_mixColumn (a : Quad) : invMixColumn (mixColumn a) = a :=
  eq_self_of_rotWord (f := fun a => invMixColumn (mixColumn a))
    (fun a => by rw [mixColumn_rotWord, invMixColumn_rotWord]) invMixColumn_mixColumn_b0 a

theorem mixColumn_invMixColumn (a : Quad) : mixColumn (invMixColumn a) = a :=
  eq_self_of_rotWord (f := fun a => mixColumn (invMixColumn a))
    (fun a => by rw [invMixColumn_rotWord, mixColumn_rotWord]) mixColumn_invMixColumn_b0 a

@[simp] theorem invMixColumns_mixColumns (s : Block) : invMixColumns (mixColumns s) = s := by
  simp only [invMixColumns, mixColumns, invMixColumn_mixColumn]

@[simp] theorem mixColumns_invMixColumns (s : Block) : mixColumns (invMixColumns s) = s := by
  simp only [invMixColumns, mixColumns, mixColumn_invMixColumn]

/-! ### The rounds -/

/-- The rounds undone in the order of R107 are the rounds undone. -/
theorem decRounds_encRounds (ks : List Block) (s : Block) : decRounds ks (encRounds ks s) = s := by
  induction ks generalizing s with
  | nil => rfl
  | cons rk rest ih =>
    cases rest with
    | nil => simp only [encRounds, decRounds, Block.xor_xor, invShiftRows_shiftRows, invSubBytes_subBytes]
    | cons rk' rest =>
      simp only [encRounds, decRounds] at ih ⊢
      rw [ih, Block.xor_xor, invMixColumns_mixColumns, invShiftRows_shiftRows, invSubBytes_subBytes]

theorem encRounds_decRounds (ks : List Block) (y : Block) : encRounds ks (decRounds ks y) = y := by
  induction ks generalizing y with
  | nil => rfl
  | cons rk rest ih =>
    cases rest with
    | nil => simp only [encRounds, decRounds, subBytes_invSubBytes, shiftRows_invShiftRows, Block.xor_xor]
    | cons rk' rest =>
      rw [encRounds, decRounds, subBytes_invSubBytes, shiftRows_invShiftRows, mixColumns_invMixColumns, Block.xor_xor, ih]
      · exact nofun
      · exact nofun

/-- R108, first direction. -/
@[simp] theorem aesDec_aesEnc (k x : Block) : aesDec k (aesEnc k x) = x := by
  rw [aesDec, aesEnc, decRounds_encRounds, Block.xor_xor]

/-- R108, second direction. -/
@[simp] theorem aesEnc_aesDec (k y : Block) : aesEnc k (aesDec k y) = y := by
  rw [aesDec, aesEnc, Block.xor_xor, encRounds_decRounds]

/-- Settles O10: the rounds undo each other under any list of round keys. -/
theorem aesBlockFunctionsInverse : Obligations.AesBlockFunctionsInverse := fun k x =>
  ⟨aesDec_aesEnc k x, aesEnc_aesDec k x⟩

end Sys2Proof.Machine
end

section
/-! PROOFS. CBC chaining (40_cbc_cipher.md R110 to R116): block by block, in parts, and back. -/

namespace Sys2Proof.Machine

open Sys2Proof

/-! ### On blocks -/

/-- Deciphering undoes enciphering, block by block (R114). -/
@[simp] theorem cbcDecBlocks_cbcEncBlocks (k iv : Block) (ps : List Block) :
    cbcDecBlocks k iv (cbcEncBlocks k iv ps) = ps := by
  induction ps generalizing iv with
  | nil => rfl
  | cons p ps ih => rw [cbcEncBlocks_cons, cbcDecBlocks_cons, aesDec_aesEnc, Block.xor_xor, ih]

/-- Enciphering undoes deciphering: both chain on the same ciphertext (R110, R111). -/
@[simp] theorem cbcEncBlocks_cbcDecBlocks (k iv : Block) (cs : List Block) :
    cbcEncBlocks k iv (cbcDecBlocks k iv cs) = cs := by
  induction cs generalizing iv with
  | nil => rfl
  | cons c cs ih => rw [cbcDecBlocks_cons, cbcEncBlocks_cons, Block.xor_xor, aesEnc_aesDec, ih]

/-- Block `i` of the ciphertext (R110). -/
theorem cbcEncBlocks_getD (k iv : Block) (ps : List Block) {i : Nat} (hi : i < ps.length) :
    (cbcEncBlocks k iv ps).getD i Block.zero =
      aesEnc k ((ps.getD i Block.zero).xor
        (if i = 0 then iv else (cbcEncBlocks k iv ps).getD (i - 1) Block.zero)) := by
  induction ps generalizing iv i with
  | nil => cases hi
  | cons p ps ih =>
    match i with
    | 0 => rfl
    | 1 => simpa using ih (aesEnc k (p.xor iv)) (i := 0) (Nat.lt_of_succ_lt_succ hi)
    | j + 2 => simpa using ih (aesEnc k (p.xor iv)) (i := j + 1) (Nat.lt_of_succ_lt_succ hi)

/-- Block `i` of the plaintext (R111). -/
theorem cbcDecBlocks_getD (k iv : Block) (cs : List Block) {i : Nat} (hi : i < cs.length) :
    (cbcDecBlocks k iv cs).getD i Block.zero =
      (aesDec k (cs.getD i Block.zero)).xor (if i = 0 then iv else cs.getD (i - 1) Block.zero) := by
  induction cs generalizing iv i with
  | nil => cases hi
  | cons c cs ih =>
    match i with
    | 0 => rfl
    | 1 => simpa using ih c (i := 0) (Nat.lt_of_succ_lt_succ hi)
    | j + 2 => simpa using ih c (i := j + 1) (Nat.lt_of_succ_lt_succ hi)

/-- Enciphering goes on from the last ciphertext block (R116). -/
theorem cbcEncBlocks_append (k iv : Block) (ps qs : List Block) :
    cbcEncBlocks k iv (ps ++ qs) =
      cbcEncBlocks k iv ps ++ cbcEncBlocks k ((cbcEncBlocks k iv ps).getLastD iv) qs := by
  induction ps generalizing iv with
  | nil => rfl
  | cons p ps ih => simp only [List.cons_append, cbcEncBlocks_cons, ih, List.getLastD_cons]

/-- Deciphering goes on from the last ciphertext block (R116). -/
theorem cbcDecBlocks_append (k iv : Block) (cs ds : List Block) :
    cbcDecBlocks k iv (cs ++ ds) = cbcDecBlocks k iv cs ++ cbcDecBlocks k (cs.getLastD iv) ds := by
  induction cs generalizing iv with
  | nil => rfl
  | cons c cs ih => simp only [List.cons_append, cbcDecBlocks_cons, ih, List.getLastD_cons]

/-! ### On strings -/

/-- The last 16 bytes of a string of blocks are its last block. -/
theorem last16_blocksToBytes {bs : List Block} (h : bs ≠ []) (d : Block) : last16 (blocksToBytes bs) = bs.getLastD d := by
  obtain ⟨front, b, rfl⟩ := (List.eq_nil_or_concat' bs).resolve_left h
  have front_length : (blocksToBytes front ++ b.toBytes).length - 16 = (blocksToBytes front).length := by simp
  rw [List.getLastD_concat, blocksToBytes_append, blocksToBytes_cons, blocksToBytes_nil, List.append_nil, last16,
    front_length, List.drop_left, Block.ofBytes_toBytes]

theorem cbcDec_cbcEnc (iv k : Block) {p : Bytes} (h : p.length % 16 = 0) : cbcDec iv k (cbcEnc iv k p) = p := by
  obtain ⟨ps, rfl⟩ := exists_blocksToBytes p h
  rw [cbcEnc_blocksToBytes, cbcDec_blocksToBytes, cbcDecBlocks_cbcEncBlocks]

theorem cbcEnc_cbcDec (iv k : Block) {c : Bytes} (h : c.length % 16 = 0) : cbcEnc iv k (cbcDec iv k c) = c := by
  obtain ⟨cs, rfl⟩ := exists_blocksToBytes c h
  rw [cbcDec_blocksToBytes, cbcEnc_blocksToBytes, cbcEncBlocks_cbcDecBlocks]

/-- Settles O12: the ciphertext and the plaintext are those of the blocks. -/
theorem cbcChainsOnCiphertext : Obligations.CbcChainsOnCiphertext :=
  ⟨fun iv k ps => ⟨_, cbcEnc_blocksToBytes iv k ps, cbcEncBlocks_length k ps iv, fun _ => cbcEncBlocks_getD k iv ps⟩,
    fun iv k cs => ⟨_, cbcDec_blocksToBytes iv k cs, cbcDecBlocks_length k cs iv, fun _ => cbcDecBlocks_getD k iv cs⟩⟩

/-- Settles O13: both parts are strings of blocks, and the second chains on the last block of the first. -/
theorem cbcChainsByParts : Obligations.CbcChainsByParts := by
  intro iv k b1 b2 h1 h2 hblock
  obtain ⟨ps, rfl⟩ := exists_blocksToBytes b1 h1
  obtain ⟨qs, rfl⟩ := exists_blocksToBytes b2 h2
  have ps_ne : ps ≠ [] := by
    rintro rfl
    simp at hblock
  have cs_ne : cbcEncBlocks k iv ps ≠ [] := by
    rw [← List.length_pos_iff, cbcEncBlocks_length]
    exact List.length_pos_iff.mpr ps_ne
  constructor
  · rw [← blocksToBytes_append, cbcEnc_blocksToBytes, cbcEnc_blocksToBytes, cbcEnc_blocksToBytes, cbcEncBlocks_append,
      blocksToBytes_append, last16_blocksToBytes cs_ne iv]
  · rw [← blocksToBytes_append, cbcDec_blocksToBytes, cbcDec_blocksToBytes, cbcDec_blocksToBytes, cbcDecBlocks_append,
      blocksToBytes_append, last16_blocksToBytes ps_ne iv]

/-! ### The operations -/

/-- CBC.ENC on operands of the right lengths completes with the ciphertext, and no register changes (R112). -/
theorem execCbcEnc_of_length {key iv data : Bytes} (hkey : key.length = 16) (hiv : iv.length = 16)
    (hdata : data.length % 16 = 0) (s : State) :
    execCbcEnc key iv data s = .next (s.deliver ⟨.ok, [cbcEnc (Block.ofBytes iv) (Block.ofBytes key) data]⟩) := by
  rw [execCbcEnc, withKey_of_length hkey, withBlock_of_length hiv, withCipherData_of_length hdata, finish_eq]

/-- CBC.DEC on operands of the right lengths completes with the plaintext, and no register changes (R113). -/
theorem execCbcDec_of_length {key iv data : Bytes} (hkey : key.length = 16) (hiv : iv.length = 16)
    (hdata : data.length % 16 = 0) (s : State) :
    execCbcDec key iv data s = .next (s.deliver ⟨.ok, [cbcDec (Block.ofBytes iv) (Block.ofBytes key) data]⟩) := by
  rw [execCbcDec, withKey_of_length hkey, withBlock_of_length hiv, withCipherData_of_length hdata, finish_eq]

/-- Settles O15: every operand passes its length test. -/
theorem cbcOperationsComplete : Obligations.CbcOperationsComplete := by
  intro key iv data s hkey hiv hdata
  constructor
  · rw [exec_cbcEnc, execCbcEnc_of_length hkey hiv hdata, State.deliver]
  · rw [exec_cbcDec, execCbcDec_of_length hkey hiv hdata, State.deliver]

/-- Settles O14: the two operations answer what the CBC functions give, which are inverse to each other and keep the
length. -/
theorem cbcOperationsRoundTrip : Obligations.CbcOperationsRoundTrip := by
  intro key iv data hkey hiv hdata
  have enc_length := cbcEnc_length (Block.ofBytes iv) (Block.ofBytes key) data hdata
  have dec_length := cbcDec_length (Block.ofBytes iv) (Block.ofBytes key) data hdata
  have enc_blocks := enc_length ▸ hdata
  have dec_blocks := dec_length ▸ hdata
  refine ⟨_, _, enc_length, dec_length, fun s => ⟨?enc, ?back, ?dec, ?forth⟩⟩
  case enc => rw [exec_cbcEnc, execCbcEnc_of_length hkey hiv hdata, State.deliver]
  case back => rw [exec_cbcDec, execCbcDec_of_length hkey hiv enc_blocks, cbcDec_cbcEnc _ _ hdata, State.deliver]
  case dec => rw [exec_cbcDec, execCbcDec_of_length hkey hiv hdata, State.deliver]
  case forth => rw [exec_cbcEnc, execCbcEnc_of_length hkey hiv dec_blocks, cbcEnc_cbcDec _ _ hdata, State.deliver]

end Sys2Proof.Machine
end

section
/-! PROOFS. CMAC (41_cmac.md R131 to R136): the doubling as arithmetic on the 128-bit number, the tag as the last block of a
CBC chain. -/

namespace Sys2Proof.Machine

open Sys2Proof

/-! ### A byte string as a number, most significant byte first -/

/-- The number of a byte string in base 256, most significant byte first (R131). -/
def bigEndian (bs : Bytes) : Nat := bs.foldl (fun acc b => 256 * acc + b.toNat) 0

theorem bigEndian_append_singleton (bs : Bytes) (b : Byte) : bigEndian (bs ++ [b]) = 256 * bigEndian bs + b.toNat := by
  simp [bigEndian]

theorem bigEndian_lt (bs : Bytes) : bigEndian bs < 256 ^ bs.length := by
  induction bs using List.reverseRecOn with
  | nil => simp [bigEndian]
  | append_singleton bs b ih =>
    have := b.isLt
    rw [bigEndian_append_singleton, List.length_append, List.length_singleton, pow_succ]
    omega

/-- Writing the low bytes of a number and reading them back (R55, R131). -/
theorem bigEndian_reverse_littleEndian (n v : Nat) : bigEndian (littleEndian n v).reverse = v % 256 ^ n := by
  induction n generalizing v with
  | zero => simp [littleEndian, bigEndian, Nat.mod_one]
  | succ n ih =>
    rw [littleEndian, List.reverse_cons, bigEndian_append_singleton, ih, pow_succ', Nat.mod_mul, BitVec.toNat_ofNat]
    omega

/-- A byte moved in at the low end, where the high byte is free. -/
theorem toNat_shiftLeft_or_byte {acc : BitVec 128} (h : acc.toNat < 2 ^ 120) (b : Byte) :
    ((acc <<< 8) ||| b.zeroExtend 128).toNat = 256 * acc.toNat + b.toNat := by
  have hb := b.isLt
  rw [BitVec.toNat_or, BitVec.toNat_shiftLeft, BitVec.zeroExtend, BitVec.toNat_setWidth,
    Nat.mod_eq_of_lt (by rw [Nat.shiftLeft_eq]; omega), Nat.mod_eq_of_lt (by omega), ← Nat.shiftLeft_add_eq_or_of_lt hb,
    Nat.shiftLeft_eq, Nat.mul_comm]

/-- The bits moved in byte by byte are the number in base 256, as long as it fits 128 bits. -/
theorem toNat_foldl_bytes (bs : Bytes) (h : bs.length ≤ 16) :
    (bs.foldl (fun (acc : BitVec 128) b => (acc <<< 8) ||| b.zeroExtend 128) 0).toNat = bigEndian bs := by
  induction bs using List.reverseRecOn with
  | nil => rfl
  | append_singleton bs b ih =>
    rw [List.length_append, List.length_singleton] at h
    have front := ih (by omega)
    have small : bigEndian bs < 2 ^ 120 := calc
      bigEndian bs < 256 ^ bs.length := bigEndian_lt bs
      _ ≤ 256 ^ 15 := Nat.pow_le_pow_right (by omega) (by omega)
      _ = 2 ^ 120 := by norm_num
    rw [List.foldl_append, List.foldl_cons, List.foldl_nil, toNat_shiftLeft_or_byte (front ▸ small), front,
      bigEndian_append_singleton]

theorem toNat_toNumber (x : Block) : (Block.toNumber x).toNat = bigEndian x.toBytes := toNat_foldl_bytes _ (le_refl 16)

/-- A number written to a block and read back (R131). -/
theorem toNumber_ofNumber (v : BitVec 128) : Block.toNumber (Block.ofNumber v) = v := by
  have length : (littleEndian 16 v.toNat).reverse.length = 16 := by rw [List.length_reverse, littleEndian_length]
  apply BitVec.eq_of_toNat_eq
  rw [toNat_toNumber, Block.ofNumber, ← eq_toBytes_of_length _ length, bigEndian_reverse_littleEndian]
  exact Nat.mod_eq_of_lt v.isLt

/-- Settles O16: doubling works on the number, and the number is that of the bytes. -/
theorem doublingRule : Obligations.DoublingRule := by
  refine fun x => ⟨?_, toNat_toNumber x⟩
  rw [dbl, toNumber_ofNumber, BitVec.msb_eq_getLsbD_last]

/-! ### The tag as the last CBC block -/

/-- The CBC-MAC accumulator is the last ciphertext block under the same start (R133). -/
theorem cbcMac_eq_getLastD (k iv : Block) (ms : List Block) : cbcMac k iv ms = (cbcEncBlocks k iv ms).getLastD iv := by
  induction ms generalizing iv with
  | nil => rfl
  | cons m ms ih =>
    rw [cbcMac, List.foldl_cons, cbcEncBlocks_cons, List.getLastD_cons, ← Block.xor_comm m iv]
    exact ih _

/-- The last block of a chain: its own input on what the blocks before it gave. -/
theorem getLast?_cbcEncBlocks_concat (k iv : Block) (front : List Block) (m : Block) :
    (cbcEncBlocks k iv (front ++ [m])).getLast? = some (aesEnc k ((cbcMac k iv front).xor m)) := by
  rw [cbcEncBlocks_append, cbcEncBlocks_cons, cbcEncBlocks_nil, List.getLast?_concat, ← cbcMac_eq_getLastD,
    Block.xor_comm m]

/-- A message of whole blocks, at least one: the last takes the first subkey (R133). -/
theorem cmacBlocks_complete (k : Block) (front : List Block) (last : Block) :
    cmacBlocks k (blocksToBytes (front ++ [last])) = (front, last.xor (subkey1 k)) := by
  rw [cmacBlocks, splitBlocks_blocksToBytes]
  simp

/-- A message that ends in an incomplete block, or is empty: what is left over is filled and takes the second subkey
(R133). -/
theorem cmacBlocks_incomplete (k : Block) (front : List Block) {left : Bytes} (hlen : left.length < 16)
    (hempty : left = [] → front = []) :
    cmacBlocks k (blocksToBytes front ++ left) =
      (front, (Block.ofBytes (left ++ [0x80] ++ zeros (15 - left.length))).xor (subkey2 k)) := by
  rw [cmacBlocks, splitBlocks_append, splitBlocks_short left hlen]
  cases left with
  | nil => rw [hempty rfl]; rfl
  | cons b left => simp

/-- Settles O17: in both cases the tag is the last block of the chain over the blocks before the last and the masked
last. -/
theorem cmacIsLastCbcBlock : Obligations.CmacIsLastCbcBlock := by
  intro k front k1 k2
  refine ⟨fun last => ?complete, fun left hlen hempty => ?incomplete⟩
  case complete => rw [cmac, cmacBlocks_complete, getLast?_cbcEncBlocks_concat, subkey1]
  case incomplete =>
    rw [cmac, cmacBlocks_incomplete k front hlen hempty, getLast?_cbcEncBlocks_concat, subkey2, subkey1, zeros]

/-- CMAC.GEN with a 16-byte key completes with the tag of the message, and no register changes (R136). -/
theorem execCmacGen_of_length {key : Bytes} (hkey : key.length = 16) (msg : Bytes) (s : State) :
    execCmacGen key msg s = .next (s.deliver ⟨.ok, [(cmac (Block.ofBytes key) msg).toBytes]⟩) := by
  rw [execCmacGen, withKey_of_length hkey, finish_eq]

/-- Settles O18: the key passes its length test, and a message of any length has a tag. -/
theorem cmacGenCompletes : Obligations.CmacGenCompletes := by
  intro key msg s hkey
  rw [exec_cmacGen, execCmacGen_of_length hkey, State.deliver]

end Sys2Proof.Machine
end

section
/-! PROOFS. Padding (42_session_state_ops.md R153, R154), and the length tests of the stateless operations in field order
(30_encoding.md R79). -/

namespace Sys2Proof.Machine

open Sys2Proof

theorem padM2_eq (data : Bytes) : padM2 data = data ++ 0x80 :: List.replicate (15 - data.length % 16) 0 := by
  rw [padM2, zeros, List.append_assoc, List.singleton_append]

/-- The padded length is the next multiple of 16 (R153). -/
theorem padM2_length (data : Bytes) : (padM2 data).length = 16 * (data.length / 16 + 1) := by
  rw [padM2_eq, List.length_append, List.length_cons, List.length_replicate]
  omega

/-- Data whose padded form fits a field is padded (R154). -/
theorem execPadM2_of_length {data : Bytes} (h : data.length ≤ 65519) (s : State) :
    execPadM2 data s = .next (s.deliver ⟨.ok, [padM2 data]⟩) := by
  rw [execPadM2, if_neg (by simpa [Config.maxPadInput] using h), finish_eq]

theorem execPadM2_tooLong {data : Bytes} (h : 65519 < data.length) (s : State) :
    execPadM2 data s = .next (s.deliver ⟨.operandLength, []⟩) := by
  rw [execPadM2, if_pos (by simpa [Config.maxPadInput] using h), raise_eq]

/-- Settles O21: the padding as it is defined, on both sides of the size limit. -/
theorem padM2Completes : Obligations.PadM2Completes := by
  intro data s padded
  have padded_eq : padM2 data = padded := padM2_eq data
  refine ⟨padded_eq, padded_eq ▸ padM2_length data, fun hfits => ?_, fun hlong => ?_⟩
  · rw [exec_padM2, execPadM2_of_length hfits, padded_eq, State.deliver]
  · rw [exec_padM2, execPadM2_tooLong hlong, State.deliver]

/-- Settles O22: the first field of a wrong length decides, a key before any other. -/
theorem primitivesRefuseWrongLengths : Obligations.PrimitivesRefuseWrongLengths := by
  intro a b c s keyLength operandLength
  refine ⟨fun ha => ?first, fun ha hb => ?second, fun ha hb hc => ?data, fun ha hb hc => ?nonce⟩
  case first =>
    exact ⟨withKey_bad ha s _, withKey_bad ha s _, withKey_bad ha s _, withKey_bad ha s _, withBlock_bad ha s _⟩
  case second =>
    have refused (body : Block → Block → StepOutcome) :
        (withKey a s fun k => withBlock b s (body k)) = operandLength := by
      rw [withKey_of_length ha, withBlock_bad hb, raise_eq, State.deliver]
    exact ⟨refused _, refused _, refused _⟩
  case data =>
    have refused (body : Block → Block → Bytes → StepOutcome) :
        (withKey a s fun k => withBlock b s fun v => withCipherData c s (body k v)) = operandLength := by
      rw [withKey_of_length ha, withBlock_of_length hb, withCipherData_bad hc, raise_eq, State.deliver]
    exact ⟨refused _, refused _⟩
  case nonce =>
    rw [exec_kdfSes, execKdfSes, withKey_of_length ha, withBlock_of_length hb, withBlock_bad hc, raise_eq, State.deliver]

end Sys2Proof.Machine
end

section
/-! PROOFS. SS.STATUS: the eleven status bytes, one by one (42_session_state_ops.md R158). -/

namespace Sys2Proof.Machine

open Sys2Proof

/-- The status bytes written out, an empty register as zero bytes. -/
theorem statusBytes_eq (s : State) :
    statusBytes s =
      [statusFlags s, s.hsPhase.toByte, (s.keyNo.map keyNoByte).getD 0,
        BitVec.ofNat 8 ((s.cmdCtr.map BitVec.toNat).getD 0), BitVec.ofNat 8 ((s.cmdCtr.map BitVec.toNat).getD 0 / 256),
        (s.ti.getD ⟨0, 0, 0, 0⟩).b0, (s.ti.getD ⟨0, 0, 0, 0⟩).b1, (s.ti.getD ⟨0, 0, 0, 0⟩).b2,
        (s.ti.getD ⟨0, 0, 0, 0⟩).b3, (s.lastErr.getD ⟨0, 0⟩).b0, (s.lastErr.getD ⟨0, 0⟩).b1] := by
  unfold statusBytes
  cases s.ti <;> cases s.lastErr <;> rfl

/-- SS.STATUS with its eleven bytes written out (R158). -/
theorem exec_ssStatus_bytes (s : State) :
    exec .ssStatus s =
      .next (s.deliver ⟨.ok, [[statusFlags s, s.hsPhase.toByte, (s.keyNo.map keyNoByte).getD 0,
        BitVec.ofNat 8 ((s.cmdCtr.map BitVec.toNat).getD 0), BitVec.ofNat 8 ((s.cmdCtr.map BitVec.toNat).getD 0 / 256),
        (s.ti.getD ⟨0, 0, 0, 0⟩).b0, (s.ti.getD ⟨0, 0, 0, 0⟩).b1, (s.ti.getD ⟨0, 0, 0, 0⟩).b2,
        (s.ti.getD ⟨0, 0, 0, 0⟩).b3, (s.lastErr.getD ⟨0, 0⟩).b0, (s.lastErr.getD ⟨0, 0⟩).b1]]⟩) := by
  rw [exec_ssStatus, execSsStatus_eq, statusBytes_eq]

/-- Bit `i` of the flag byte is flag `i` of the list (R158). -/
theorem statusFlags_getLsbD (s : State) (i : Nat) :
    (statusFlags s).getLsbD i =
      [s.authFirst, s.authNonFirst, s.sesEncKey.isSome && s.sesMacKey.isSome, s.cmdCtr.isSome, s.ti.isSome,
        s.keyNo.isSome, s.lastErr.isSome, false].getD i false := BitVec.getLsbD_ofBoolListLE

theorem keyNoByte_toNat (n : Fin 15) : (keyNoByte n).toNat = n.val := by
  rw [keyNoByte, BitVec.toNat_ofNat]
  omega

/-- The two bytes of a 16-bit number, low byte first, read back (R55). -/
theorem toNat_low_add_high (c : BitVec 16) :
    (BitVec.ofNat 8 c.toNat).toNat + 256 * (BitVec.ofNat 8 (c.toNat / 256)).toNat = c.toNat := by
  have := c.isLt
  rw [BitVec.toNat_ofNat, BitVec.toNat_ofNat]
  omega

/-- Settles O24: the bytes one by one, each register valid or empty. -/
theorem ssStatusLayout : Obligations.SsStatusLayout := by
  intro s
  refine ⟨_, _, _, _, _, _, _, _, _, _, _, exec_ssStatus_bytes s, statusFlags_getLsbD s 0, statusFlags_getLsbD s 1,
    statusFlags_getLsbD s 2, statusFlags_getLsbD s 3, statusFlags_getLsbD s 4, statusFlags_getLsbD s 5,
    statusFlags_getLsbD s 6, statusFlags_getLsbD s 7, ?idle, ?waitRndB, ?waitFinal, fun n hn => ?keyNo, fun hn => ?noKeyNo,
    fun c hc => ?counter, fun hc => ?noCounter, fun t ht => ?ti, fun ht => ?noTi, fun e he => ?lastErr, fun he => ?noLastErr⟩
  case idle | waitRndB | waitFinal =>
    intro hphase
    rw [hphase, Phase.toByte]
  case keyNo => rw [hn, Option.map_some, Option.getD_some, keyNoByte_toNat]
  case noKeyNo => rw [hn, Option.map_none, Option.getD_none]
  case counter => simp only [hc, Option.map_some, Option.getD_some, toNat_low_add_high]
  case noCounter => simp [hc]
  case ti => rw [ht, Option.getD_some]
  case noTi => simp [ht]
  case lastErr => rw [he, Option.getD_some]
  case noLastErr => simp [he]

end Sys2Proof.Machine
end

section
/-! PROOFS. AUTH.START (43_authentication.md R171 to R174): its operand tests in order, and each variant's effect. -/

namespace Sys2Proof.Machine

open Sys2Proof

@[simp] theorem withVariant_toByte (v : Variant) (s : State) (body : Variant → StepOutcome) :
    withVariant v.toByte s body = body v := by cases v <;> rfl

/-- AUTH.START on operands of the right lengths and values (R171). -/
theorem execAuthStart_operands {keyNo : Byte} {n : Fin 15} (hn : keyNo.toNat = n.val) {authKey : Bytes}
    (hkey : authKey.length = 16) (v : Variant) (s : State) :
    execAuthStart [v.toByte] [keyNo] authKey s =
      if v = .nonFirst ∧ s.hasPriorFirst = false then raisePrecondition s
      else finish [startParam v n] ((s.clearForStart v).openHandshake v n (Block.ofBytes authKey)) := by
  rw [execAuthStart, withByte_singleton, withByte_singleton, withKey_of_length hkey, withVariant_toByte,
    withKeyNo_of_toNat hn]

/-- AUTH.START opens the handshake: First in every state, NonFirst where its transaction stands (R171 to R174). -/
theorem execAuthStart_opens {keyNo : Byte} {n : Fin 15} (hn : keyNo.toNat = n.val) {authKey : Bytes}
    (hkey : authKey.length = 16) {v : Variant} {s : State}
    (hprior : v = .nonFirst → s.cmdCtr.isSome = true ∧ s.ti.isSome = true) :
    execAuthStart [v.toByte] [keyNo] authKey s =
      .next (((s.clearForStart v).openHandshake v n (Block.ofBytes authKey)).deliver
        ⟨.ok, [if v = .first then [keyNo, 0x00] else [keyNo]]⟩) := by
  rw [execAuthStart_operands hn hkey]
  cases v with
  | first => rw [if_neg (by simp), startParam, keyNoByte_of_toNat hn, finish_eq, if_pos rfl]
  | nonFirst =>
    obtain ⟨hctr, hti⟩ := hprior rfl
    rw [if_neg (by simp [State.hasPriorFirst, hctr, hti]), startParam, keyNoByte_of_toNat hn, finish_eq, if_neg nofun]

/-- AUTH.START NonFirst without a transaction is refused (R172). -/
theorem execAuthStart_nonFirst_refused {keyNo : Byte} {n : Fin 15} (hn : keyNo.toNat = n.val) {authKey : Bytes}
    (hkey : authKey.length = 16) {s : State} (hprior : s.cmdCtr = none ∨ s.ti = none) :
    execAuthStart [0x01] [keyNo] authKey s =
      .next ((s.setLastErr Config.precondErrcode).deliver ⟨.precondition, []⟩) := by
  have noPrior : s.hasPriorFirst = false := by
    obtain hctr | hti := hprior
    · rw [State.hasPriorFirst, hctr, Option.isSome_none, Bool.false_and]
    · rw [State.hasPriorFirst, hti, Option.isSome_none, Bool.and_false]
  exact (execAuthStart_operands hn hkey .nonFirst s).trans (by rw [if_pos ⟨rfl, noPrior⟩, raisePrecondition_eq])

/-- Settles O26: First opens a handshake in every state. -/
theorem authStartFirstCompletes : Obligations.AuthStartFirstCompletes := by
  intro keyNo n authKey s hn hkey
  exact execAuthStart_opens (v := .first) hn hkey nofun

/-- Settles O27: NonFirst opens on a transaction that stands, and is refused without one. -/
theorem authStartNonFirstCompletes : Obligations.AuthStartNonFirstCompletes := by
  intro keyNo n authKey s hn hkey
  refine ⟨fun hctr hti => ?_, fun hprior => ?_⟩
  · exact execAuthStart_opens (v := .nonFirst) hn hkey fun _ => ⟨hctr, hti⟩
  · rw [exec_authStart, execAuthStart_nonFirst_refused hn hkey hprior, State.deliver, State.setLastErr]

/-- A variant byte that is not reserved, with a key number that is (R171). -/
theorem withVariant_withKeyNo_bad {v n : Byte} (h : 0x01 < v ∨ 0x0E < n) (s : State)
    (body : Variant → Fin 15 → StepOutcome) :
    (withVariant v s fun v => withKeyNo n s (body v)) = raise .badOperandValue s := by
  by_cases hv : 0x01 < v
  · exact withVariant_bad hv s _
  · have hn : 14 < n.toNat := by simpa [BitVec.lt_def] using h.resolve_left hv
    unfold withVariant
    split
    · exact withKeyNo_bad hn s _
    · rfl

/-- Settles O28: the two one-byte fields, then the key's length, then the values. -/
theorem authStartRefusesBadOperands : Obligations.AuthStartRefusesBadOperands := by
  intro variant keyNo authKey s
  refine ⟨fun hlen => ?lengths, fun hv hn hkey => ?key, fun v n hv hn hkey hvalue => ?values⟩
  case lengths =>
    by_cases hv : variant.length = 1
    · obtain ⟨v, rfl⟩ := List.length_eq_one_iff.mp hv
      have hn : keyNo.length ≠ 1 := hlen.resolve_left (not_not.mpr hv)
      rw [exec_authStart, execAuthStart, withByte_singleton, withByte_bad hn, raise_eq, State.deliver]
    · rw [exec_authStart, execAuthStart, withByte_bad hv, raise_eq, State.deliver]
  case key =>
    obtain ⟨v, rfl⟩ := List.length_eq_one_iff.mp hv
    obtain ⟨n, rfl⟩ := List.length_eq_one_iff.mp hn
    rw [exec_authStart, execAuthStart, withByte_singleton, withByte_singleton, withKey_bad hkey, raise_eq, State.deliver]
  case values =>
    subst hv hn
    rw [exec_authStart, execAuthStart, withByte_singleton, withByte_singleton, withKey_of_length hkey,
      withVariant_withKeyNo_bad hvalue, raise_eq, State.deliver]

end Sys2Proof.Machine
end

section
/-! PROOFS. AUTH.CHAL and AUTH.FIN (43_authentication.md R175 to R185, R188): every way each of them ends. -/

namespace Sys2Proof.Machine

open Sys2Proof

/-! ### AUTH.CHAL -/

/-- The second message: `randA`, and the rotated `randB` chained on it (R175, R179). -/
theorem secondMessage_eq (k randA randB : Block) :
    secondMessage k randA randB =
      (aesEnc k randA).toBytes ++ (aesEnc k ((Block.ofBytes (rotL1 randB.toBytes)).xor (aesEnc k randA))).toBytes := by
  have rotated : (rotL1 randB.toBytes) = (Block.ofBytes (rotL1 randB.toBytes)).toBytes := eq_toBytes_of_length _ rfl
  have blocks : randA.toBytes ++ rotL1 randB.toBytes = blocksToBytes [randA, Block.ofBytes (rotL1 randB.toBytes)] := by
    rw [blocksToBytes_cons, blocksToBytes_cons, blocksToBytes_nil, List.append_nil, ← rotated]
  rw [secondMessage, blocks, cbcEnc_blocksToBytes, cbcEncBlocks_cons, cbcEncBlocks_cons, cbcEncBlocks_nil, Block.xor_zero,
    blocksToBytes_cons, blocksToBytes_cons, blocksToBytes_nil, List.append_nil]

/-- A one-block body deciphered (R175). -/
theorem cbcDec_zero_of_length (k : Block) {body : Bytes} (h : body.length = 16) :
    cbcDec Block.zero k body = (aesDec k (Block.ofBytes body)).toBytes := by
  conv_lhs => rw [eq_toBytes_of_length body h]
  exact cbcDec_zero_toBytes k _

/-- The pair "more data" (R8). -/
theorem statusMoreData_eq : (⟨0x91, 0xAF⟩ : StatusPair) = Config.statusMoreData := rfl

/-- The pair "success" (R8). -/
theorem statusSuccess_eq : (⟨0x91, 0x00⟩ : StatusPair) = Config.statusSuccess := rfl

/-- AUTH.CHAL in its turn on `91 AF` and a 16-byte body takes the draw, keeps both nonces and answers the second message
(R175, R178, R179). -/
theorem execAuthChal_ok {s : State} {k : Block} {body : Bytes} (hphase : s.hsPhase = .waitRndB)
    (hkey : s.hsAuthKey = some k) (hbody : body.length = 16) :
    execAuthChal [0x91, 0xAF] body s =
      .next ((((s.setLastErr ⟨0x91, 0xAF⟩).consumeDraw).saveNonces s.nextDraw (aesDec k (Block.ofBytes body))).deliver
        ⟨.ok, [secondMessage k s.nextDraw (aesDec k (Block.ofBytes body))]⟩) := by
  rw [execAuthChal, withPair_two, if_neg (not_not.mpr hphase), if_neg (not_not.mpr statusMoreData_eq),
    Config.blockLen, if_neg (not_not.mpr hbody), hkey,
    readReg_some, cbcDec_zero_of_length k hbody, Block.ofBytes_toBytes, finish_eq]

/-- AUTH.CHAL in its turn on another pair (R177). -/
theorem execAuthChal_status {s : State} {st : StatusPair} (hphase : s.hsPhase = .waitRndB)
    (hst : st ≠ Config.statusMoreData) (body : Bytes) :
    execAuthChal st.toBytes body s =
      .next ((s.setLastErr st).clearSession.deliver ⟨.protocolStatus, [st.toBytes]⟩) := by
  rw [execAuthChal, withPair_toBytes, if_neg (not_not.mpr hphase), if_pos hst, failHandshakeStatus_eq]

/-- AUTH.CHAL in its turn on `91 AF` and a body of another length (R177). -/
theorem execAuthChal_malformed {s : State} (hphase : s.hsPhase = .waitRndB) {body : Bytes} (hbody : body.length ≠ 16) :
    execAuthChal [0x91, 0xAF] body s =
      .next ((s.setLastErr ⟨0x91, 0xAF⟩).clearSession.deliver ⟨.malformedResponse, []⟩) := by
  rw [execAuthChal, withPair_two, if_neg (not_not.mpr hphase), if_neg (not_not.mpr statusMoreData_eq),
    Config.blockLen, if_pos hbody, failHandshake_eq]

/-- Settles O29: the second message is two chained blocks. -/
theorem authChalCompletes : Obligations.AuthChalCompletes := by
  intro body k s hphase hkey hbody randA randB first second
  refine ⟨fun d ds hdraws => by simp only [randA, State.nextDraw, hdraws], ?_⟩
  rw [exec_authChal, execAuthChal_ok hphase hkey hbody, secondMessage_eq]
  rfl

theorem execAuthChal_badStatus {status : Bytes} (h : status.length ≠ 2) (body : Bytes) (s : State) :
    execAuthChal status body s = .next (s.deliver ⟨.operandLength, []⟩) := by
  rw [execAuthChal, withPair_bad h, raise_eq]

/-- Settles O30: the tests in their order, each with its own refusal. -/
theorem authChalFailures : Obligations.AuthChalFailures := by
  intro status body s
  refine ⟨fun hstatus => execAuthChal_badStatus hstatus body s, ?_⟩
  rintro e0 e1 rfl
  refine ⟨fun hturn => ?outOfTurn, fun hphase hst => ?status, fun hphase he0 he1 hbody => ?length⟩
  case outOfTurn => exact execAuthChal_outOfTurn ⟨e0, e1⟩ body hturn
  case status =>
    have hne : (⟨e0, e1⟩ : StatusPair) ≠ Config.statusMoreData := fun heq => hst (by simpa [Config.statusMoreData] using heq)
    exact execAuthChal_status hphase hne body
  case length =>
    subst he0 he1
    exact execAuthChal_malformed hphase hbody

/-! ### AUTH.FIN -/

/-- AUTH.FIN out of turn is refused with PRECONDITION (R180, R265). -/
theorem execAuthFin_outOfTurn (st : StatusPair) (body : Bytes) {s : State} (h : s.hsPhase ≠ .waitFinal) :
    execAuthFin st.toBytes body s = .next ((s.setLastErr Config.precondErrcode).deliver ⟨.precondition, []⟩) := by
  rw [execAuthFin, withPair_toBytes, if_pos h, raisePrecondition_eq]

theorem execAuthFin_badStatus {status : Bytes} (h : status.length ≠ 2) (body : Bytes) (s : State) :
    execAuthFin status body s = .next (s.deliver ⟨.operandLength, []⟩) := by
  rw [execAuthFin, withPair_bad h, raise_eq]

/-- AUTH.FIN in its turn on a pair other than `91 00` (R182). -/
theorem execAuthFin_status {s : State} {st : StatusPair} (hphase : s.hsPhase = .waitFinal)
    (hst : st ≠ Config.statusSuccess) (body : Bytes) :
    execAuthFin st.toBytes body s =
      .next ((s.setLastErr st).clearSession.deliver ⟨.protocolStatus, [st.toBytes]⟩) := by
  rw [execAuthFin, withPair_toBytes, if_neg (not_not.mpr hphase), if_pos hst, failHandshakeStatus_eq]

section
variable {s : State} {v : Variant} {n : Fin 15} {k randA randB : Block} {body : Bytes}

/-- AUTH.FIN in its turn on `91 00` and a body of the wrong length for the variant (R182). -/
theorem execAuthFin_malformed (h : s.AwaitsFinal v n k randA randB) (hbody : body.length ≠ finalReplyLen v) :
    execAuthFin [0x91, 0x00] body s =
      .next ((s.setLastErr ⟨0x91, 0x00⟩).clearSession.deliver ⟨.malformedResponse, []⟩) := by
  rw [execAuthFin, withPair_two, if_neg (not_not.mpr h.hsPhase), if_neg (not_not.mpr statusSuccess_eq), h.hsVariant, readReg_some,
    if_pos hbody, failHandshake_eq]

/-- AUTH.FIN in its turn on a reply whose returned `randA` is not the one that was sent (R184). -/
theorem execAuthFin_mismatch (h : s.AwaitsFinal v n k randA randB) (hbody : body.length = finalReplyLen v)
    (hnonce : rotR1 (receivedRot v (cbcDec Block.zero k body)) ≠ randA.toBytes) :
    execAuthFin [0x91, 0x00] body s =
      .next ((s.setLastErr ⟨0x91, 0x00⟩).clearSession.deliver ⟨.authFailed, []⟩) := by
  rw [execAuthFin, withPair_two, if_neg (not_not.mpr h.hsPhase), if_neg (not_not.mpr statusSuccess_eq), h.hsVariant, readReg_some,
    if_neg (not_not.mpr hbody), h.hsAuthKey, readReg_some, h.hsRndA, readReg_some, if_pos hnonce, failHandshake_eq]

/-- AUTH.FIN in its turn on a reply that returns `randA` loads the session (R180, R183 to R185). -/
theorem execAuthFin_commits (h : s.AwaitsFinal v n k randA randB) (hbody : body.length = finalReplyLen v)
    (hnonce : rotR1 (receivedRot v (cbcDec Block.zero k body)) = randA.toBytes) :
    execAuthFin [0x91, 0x00] body s =
      .next (((s.setLastErr ⟨0x91, 0x00⟩).commitSession v (kdfEncKey k randA randB) (kdfMacKey k randA randB) n
        (cbcDec Block.zero k body)).deliver ⟨.ok, [receivedCaps v (cbcDec Block.zero k body)]⟩) := by
  rw [execAuthFin, withPair_two, if_neg (not_not.mpr h.hsPhase), if_neg (not_not.mpr statusSuccess_eq), h.hsVariant, readReg_some,
    if_neg (not_not.mpr hbody), h.hsAuthKey, readReg_some, h.hsRndA, readReg_some, if_neg (not_not.mpr hnonce), h.hsRndB,
    readReg_some, h.hsKeyNo, readReg_some, finish_eq]

end

theorem finalReplyLen_eq (v : Variant) : finalReplyLen v = if v = .first then 32 else 16 := by cases v <;> rfl

/-- Where the final reply holds the returned `randA` (R180, R183). -/
theorem receivedRot_eq (v : Variant) (plain : Bytes) :
    receivedRot v plain = (plain.drop (if v = .first then 4 else 0)).take 16 := by
  cases v with
  | first => exact slice_eq_take_drop plain 4 20
  | nonFirst => exact slice_eq_take_drop plain 0 16

/-- The card's TI stands in the first four bytes of the final reply (R183). -/
theorem Quad.ofBytes_slice_four (plain : Bytes) :
    Quad.ofBytes (slice plain 0 4) = ⟨plain.getD 0 0, plain.getD 1 0, plain.getD 2 0, plain.getD 3 0⟩ := by
  simp [slice_zero_left, Quad.ofBytes, List.getD_eq_getElem?_getD]

/-- Settles O31: the reply is two blocks, so that the capability bytes are all that follows byte 20. -/
theorem authFinFirstCommits : Obligations.AuthFinFirstCommits := by
  rintro body plain n k randA randB s h hbody rfl hnonce
  have hrot : rotR1 (receivedRot .first (cbcDec Block.zero k body)) = randA.toBytes := by
    rw [receivedRot_eq, if_pos rfl, hnonce]
  have plain_length : (cbcDec Block.zero k body).length = 32 := by rw [cbcDec_length _ _ _ (by rw [hbody]), hbody]
  rw [exec_authFin, execAuthFin_commits h hbody hrot, State.commitSession_first, Quad.ofBytes_slice_four, receivedCaps,
    slice_to_end plain_length.le]
  rfl

/-- Settles O32: the reply is one block, the rotated `randA`. -/
theorem authFinNonFirstCommits : Obligations.AuthFinNonFirstCommits := by
  intro body n k randA randB s h hbody hnonce
  have plain_length : (cbcDec Block.zero k body).length = 16 := by rw [cbcDec_length _ _ _ (by rw [hbody]), hbody]
  have hrot : rotR1 (receivedRot .nonFirst (cbcDec Block.zero k body)) = randA.toBytes := by
    rw [receivedRot, slice_to_end plain_length.le, List.drop_zero, hnonce]
  rw [exec_authFin, execAuthFin_commits h hbody hrot, State.commitSession_nonFirst, receivedCaps]
  rfl

/-- Settles O33: the tests in their order, the last two for both variants at once. -/
theorem authFinFailures : Obligations.AuthFinFailures := by
  intro status body s
  refine ⟨fun hstatus => execAuthFin_badStatus hstatus body s, ?_⟩
  rintro e0 e1 rfl
  refine ⟨fun hturn => ?outOfTurn, fun hphase hst => ?status, fun v n k randA randB h he0 he1 => ?inTurn⟩
  case outOfTurn => exact execAuthFin_outOfTurn ⟨e0, e1⟩ body hturn
  case status =>
    have hne : (⟨e0, e1⟩ : StatusPair) ≠ Config.statusSuccess := fun heq => hst (by simpa [Config.statusSuccess] using heq)
    exact execAuthFin_status hphase hne body
  case inTurn =>
    subst he0 he1
    rw [← finalReplyLen_eq, ← receivedRot_eq]
    exact ⟨execAuthFin_malformed h, execAuthFin_mismatch h⟩

/-! ### Failures -/

/-- What answers PRECONDITION in some state does not raise a programming error in every state. -/
theorem not_raisesAlways_of_precondition {op : State → StepOutcome} {s : State}
    (h : op s = .next ((s.setLastErr Config.precondErrcode).deliver ⟨.precondition, []⟩)) : ¬RaisesAlways op := by
  rintro ⟨c, hc, always⟩
  have same_record := congrArg State.result (Host.Outcome.next.inj ((always s).symm.trans h))
  cases same_record
  exact absurd hc (by decide)

/-- A failure past the phase check: everything cleared, and the pair in LASTERR (R188). -/
theorem clearedWithStatus (s : State) (st : StatusPair) (r : Result) :
    ((s.setLastErr st).clearSession.deliver r).Cleared ∧
      ((s.setLastErr st).clearSession.deliver r).lastErr.map StatusPair.toBytes = some st.toBytes :=
  ⟨(s.setLastErr st).clearSession_cleared, rfl⟩

/-- Settles O34: past the phase check both operations fail by the full clear action alone. -/
theorem handshakeFailureClears : Obligations.HandshakeFailureClears := by
  rintro status body s t r hlen hr hrc (⟨hphase, h⟩ | ⟨hphase, h⟩)
  · obtain hraises | ⟨st, rfl, hform⟩ := execAuthChal_form status body
    · obtain ⟨e0, e1, rfl⟩ := List.length_eq_two.mp hlen
      exact absurd hraises (not_raisesAlways_of_precondition
        (execAuthChal_outOfTurn ⟨e0, e1⟩ body (s := State.reset) nofun))
    · obtain ⟨hturn, -⟩ | ⟨-, q, -, -, -, -, rfl⟩ | ⟨-, k, -, rfl⟩ := hform s t h
      · exact absurd hphase hturn
      · exact clearedWithStatus s st q
      · cases hr
        exact absurd rfl hrc
  · obtain hraises | ⟨st, rfl, hform⟩ := execAuthFin_form status body
    · obtain ⟨e0, e1, rfl⟩ := List.length_eq_two.mp hlen
      exact absurd hraises (not_raisesAlways_of_precondition
        (execAuthFin_outOfTurn ⟨e0, e1⟩ body (s := State.reset) nofun))
    · obtain ⟨hturn, -⟩ | ⟨-, q, -, -, -, rfl⟩ | ⟨-, v, n, ek, mk, plain, -, -, rfl⟩ := hform s t h
      · exact absurd hphase hturn
      · exact clearedWithStatus s st q
      · cases hr
        exact absurd rfl hrc

end Sys2Proof.Machine
end

section
/-! PROOFS. A whole handshake with a card that holds the same key and follows the protocol (43_authentication.md R170 to
R186): the card's two replies pass every test, and what is loaded is what both sides derive. -/

namespace Sys2Proof.Machine

open Sys2Proof

/-- The two rotations undo each other (R13). -/
theorem rotR1_rotL1 {b : Bytes} (h : b ≠ []) : rotR1 (rotL1 b) = b := by
  obtain ⟨x, xs, rfl⟩ := List.exists_cons_of_ne_nil h
  simp [rotR1, rotL1]

theorem rotL1_toBytes_length (x : Block) : (rotL1 x.toBytes).length = 16 := rfl

/-- The state after AUTH.START of a handshake with this key number and key. -/
def State.started (s : State) (v : Variant) (n : Fin 15) (k : Block) (outs : List Bytes) : State :=
  ((s.clearForStart v).openHandshake v n k).deliver ⟨.ok, outs⟩

/-- The state after AUTH.CHAL has taken the draw and the card's nonce. -/
def State.challenged (s : State) (randB : Block) (msg : Bytes) : State :=
  (((s.setLastErr ⟨0x91, 0xAF⟩).consumeDraw).saveNonces s.nextDraw randB).deliver ⟨.ok, [msg]⟩

theorem State.started_hsAuthKey (s : State) (v : Variant) (n : Fin 15) (k : Block) (outs : List Bytes) :
    (s.started v n k outs).hsAuthKey = some k := rfl

theorem State.started_hsPhase (s : State) (v : Variant) (n : Fin 15) (k : Block) (outs : List Bytes) :
    (s.started v n k outs).hsPhase = .waitRndB := rfl

/-- AUTH.START keeps the draw for AUTH.CHAL (R178). -/
theorem State.started_nextDraw (s : State) (v : Variant) (n : Fin 15) (k : Block) (outs : List Bytes) :
    (s.started v n k outs).nextDraw = s.nextDraw := by cases v <;> rfl

/-- AUTH.START and AUTH.CHAL leave a handshake that awaits the final reply, with the draw and the card's nonce. -/
theorem State.challenged_awaitsFinal (s : State) (v : Variant) (n : Fin 15) (k randB : Block) (outs : List Bytes)
    (msg : Bytes) : ((s.started v n k outs).challenged randB msg).AwaitsFinal v n k s.nextDraw randB :=
  ⟨rfl, rfl, rfl, rfl, congrArg some (s.started_nextDraw v n k outs), rfl⟩

/-- AUTH.CHAL on the first reply of a card with the same key finds the card's nonce (R175). -/
theorem execAuthChal_honest {s : State} {k : Block} (hphase : s.hsPhase = .waitRndB) (hkey : s.hsAuthKey = some k)
    (randB : Block) :
    execAuthChal [0x91, 0xAF] (cbcEnc Block.zero k randB.toBytes) s =
      .next (s.challenged randB (secondMessage k s.nextDraw randB)) := by
  rw [cbcEnc_zero_toBytes, execAuthChal_ok hphase hkey (Block.toBytes_length _), Block.ofBytes_toBytes, aesDec_aesEnc]
  rfl

/-- The card finds `randA` and the rotated `randB` in the second message (R179). -/
theorem cbcDec_secondMessage (k randA randB : Block) :
    cbcDec Block.zero k (secondMessage k randA randB) = randA.toBytes ++ rotL1 randB.toBytes :=
  cbcDec_cbcEnc _ _ (by rw [List.length_append, rotL1_toBytes_length, Block.toBytes_length])

/-- AUTH.FIN on the enciphered final reply of a card with the same key, which returns the rotated `randA` (R183, R185). -/
theorem execAuthFin_honest {s : State} {v : Variant} {n : Fin 15} {k randA randB : Block}
    (h : s.AwaitsFinal v n k randA randB) {plain : Bytes} (hlen : plain.length = finalReplyLen v)
    (hrot : receivedRot v plain = rotL1 randA.toBytes) :
    execAuthFin [0x91, 0x00] (cbcEnc Block.zero k plain) s =
      .next (((s.setLastErr ⟨0x91, 0x00⟩).commitSession v (kdfEncKey k randA randB) (kdfMacKey k randA randB) n
        plain).deliver ⟨.ok, [receivedCaps v plain]⟩) := by
  have blocks : plain.length % 16 = 0 := by
    rw [hlen]
    cases v <;> rfl
  have deciphered : cbcDec Block.zero k (cbcEnc Block.zero k plain) = plain := cbcDec_cbcEnc _ _ blocks
  rw [execAuthFin_commits h (by rw [cbcEnc_length _ _ _ blocks, hlen])
    (by rw [deciphered, hrot, rotR1_rotL1 (b := randA.toBytes) nofun]), deciphered]

/-- The parts of a First final reply: TI, the rotated `randA`, the capability bytes (R183). -/
theorem finalReply_first (ti : Quad) (randA : Block) {caps : Bytes} (hcaps : caps.length = 12) :
    let plain := ti.toBytes ++ rotL1 randA.toBytes ++ caps
    plain.length = 32 ∧ Quad.ofBytes (slice plain 0 4) = ti ∧ receivedRot .first plain = rotL1 randA.toBytes ∧
      receivedCaps .first plain = caps := by
  intro plain
  have plain_length : plain.length = 32 := by simp [plain, rotL1_toBytes_length, hcaps]
  refine ⟨plain_length, rfl, rfl, ?_⟩
  rw [receivedCaps, slice_to_end plain_length.le]
  rfl

/-- Settles O35: start, challenge and final reply, each by what the operation does on the honest card's bytes. -/
theorem honestFirstHandshake : Obligations.HonestFirstHandshake := by
  intro keyNo n k randB ti caps s hn hcaps randA reply1 reply2
  obtain ⟨plain_length, ti_eq, rot_eq, caps_eq⟩ := finalReply_first ti randA hcaps
  let s1 := s.started .first n k [[keyNo, 0x00]]
  have start : exec (.authStart [0x00] [keyNo] k.toBytes) s = .next s1 :=
    execAuthStart_opens (v := .first) hn k.toBytes_length nofun
  have chal := execAuthChal_honest (s.started_hsPhase .first n k [[keyNo, 0x00]]) (State.started_hsAuthKey ..) randB
  have fin := execAuthFin_honest (s.challenged_awaitsFinal .first n k randB [[keyNo, 0x00]]
    (secondMessage k s1.nextDraw randB)) plain_length rot_eq
  rw [caps_eq, State.commitSession_first, ti_eq] at fin
  exact ⟨_, s1, _, _, start, chal, rfl, cbcDec_secondMessage k s1.nextDraw randB, fin, rfl, rfl, rfl, rfl, rfl, rfl, rfl,
    rfl, rfl, rfl⟩

/-- Settles O36: as O35, on the transaction that stands. -/
theorem honestNonFirstHandshake : Obligations.HonestNonFirstHandshake := by
  intro keyNo n k randB c ti s hn hctr hti randA
  let s1 := s.started .nonFirst n k [[keyNo]]
  have start : exec (.authStart [0x01] [keyNo] k.toBytes) s = .next s1 :=
    execAuthStart_opens (v := .nonFirst) hn k.toBytes_length fun _ => ⟨by rw [hctr]; rfl, by rw [hti]; rfl⟩
  have chal := execAuthChal_honest (s.started_hsPhase .nonFirst n k [[keyNo]]) (State.started_hsAuthKey ..) randB
  have fin := execAuthFin_honest (s.challenged_awaitsFinal .nonFirst n k randB [[keyNo]]
    (secondMessage k s1.nextDraw randB)) (plain := rotL1 s.nextDraw.toBytes) rfl rfl
  exact ⟨s1, _, _, start, chal, fin, rfl, rfl, rfl, hctr, hti, rfl, rfl, rfl⟩

end Sys2Proof.Machine
end

section
/-! PROOFS. The secure codec (44_secure_codec.md R202 to R217, R220): the operand tests, the closed gate, and every way SM.RSP
ends. -/

namespace Sys2Proof.Machine

open Sys2Proof

/-! ### SM.CMD: operands and gate -/

/-- SM.CMD refuses wrong lengths, and what would not fit a field, in every state (R205). -/
theorem execSmCmd_bad {cmdCode header plaintext : Bytes}
    (h : cmdCode.length ≠ 1 ∨ plaintext.length % 16 ≠ 0 ∨ 65535 < header.length + plaintext.length + 8) (s : State) :
    execSmCmd cmdCode header plaintext s = .next (s.deliver ⟨.operandLength, []⟩) := by
  by_cases hcode : cmdCode.length = 1
  · obtain ⟨cc, rfl⟩ := List.length_eq_one_iff.mp hcode
    by_cases hblocks : plaintext.length % 16 = 0
    · have hlong : header.length + plaintext.length + Config.macLen > Config.maxField :=
        (h.resolve_left (not_not.mpr hcode)).resolve_left (not_not.mpr hblocks)
      rw [execSmCmd, withByte_singleton, withCipherData_of_length hblocks, if_pos hlong, raise_eq]
    · rw [execSmCmd, withByte_singleton, withCipherData_bad hblocks, raise_eq]
  · rw [execSmCmd, withByte_bad hcode, raise_eq]

/-- SM.CMD on operands of the right lengths meets the gate (R202, R205). -/
theorem execSmCmd_gate_closed {s : State} (hauth : s.authenticated = false) (cmdCode : Byte) {header plaintext : Bytes}
    (hblocks : plaintext.length % 16 = 0) (hfits : header.length + plaintext.length + 8 ≤ 65535) :
    execSmCmd [cmdCode] header plaintext s = raisePrecondition s := by
  have fits : ¬header.length + plaintext.length + Config.macLen > Config.maxField := Nat.not_lt.mpr hfits
  rw [execSmCmd, withByte_singleton, withCipherData_of_length hblocks, if_neg fits, gated_closed hauth]

/-! ### SM.RSP: operands, gate, status, counter -/

@[simp] theorem withMode_toByte (m : RespMode) (s : State) (body : RespMode → StepOutcome) :
    withMode m.toByte s body = body m := by cases m <;> rfl

/-- A mode byte up to 01 is a mode's (R211). -/
theorem exists_mode_toByte {b : Byte} (h : b ≤ 0x01) : ∃ m : RespMode, b = m.toByte := by
  obtain rfl | rfl : b = 0x00 ∨ b = 0x01 := by bv_omega
  · exact ⟨.plain, rfl⟩
  · exact ⟨.enciphered, rfl⟩

/-- SM.RSP refuses wrong lengths in every state (R210). -/
theorem execSmRsp_badLength {mode status : Bytes} (h : mode.length ≠ 1 ∨ status.length ≠ 2) (body : Bytes) (s : State) :
    execSmRsp mode status body s = .next (s.deliver ⟨.operandLength, []⟩) := by
  by_cases hmode : mode.length = 1
  · obtain ⟨m, rfl⟩ := List.length_eq_one_iff.mp hmode
    have hstatus : status.length ≠ 2 := h.resolve_left (not_not.mpr hmode)
    rw [execSmRsp, withByte_singleton, withPair_bad hstatus, raise_eq]
  · rw [execSmRsp, withByte_bad hmode, raise_eq]

/-- SM.RSP refuses a reserved mode in every state (R210, R211). -/
theorem execSmRsp_badMode {mode : Byte} (h : 0x01 < mode) (st : StatusPair) (body : Bytes) (s : State) :
    execSmRsp [mode] st.toBytes body s = .next (s.deliver ⟨.badOperandValue, []⟩) := by
  rw [execSmRsp, withByte_singleton, withPair_toBytes, withMode_bad h, raise_eq]

theorem execSmRsp_gate_closed {s : State} (hauth : s.authenticated = false) (m : RespMode) (st : StatusPair)
    (body : Bytes) : execSmRsp [m.toByte] st.toBytes body s = raisePrecondition s := by
  rw [execSmRsp, withByte_singleton, withPair_toBytes, withMode_toByte, gated_closed hauth]

/-- SM.RSP on a pair other than `91 00` mirrors it and goes no further (R212). -/
theorem execSmRsp_status {s : State} (hauth : s.authenticated = true) {st : StatusPair} (hst : st ≠ Config.statusSuccess)
    (m : RespMode) (body : Bytes) :
    execSmRsp [m.toByte] st.toBytes body s = .next ((s.setLastErr st).deliver ⟨.protocolStatus, [st.toBytes]⟩) := by
  rw [execSmRsp, withByte_singleton, withPair_toBytes, withMode_toByte, gated_open hauth, if_pos hst, raiseStatus_eq]

/-- SM.RSP on `91 00` at the last counter value clears the session (R213). -/
theorem execSmRsp_exhausted {s : State} (hauth : s.authenticated = true) (hctr : s.cmdCtr = some Config.lastCounter)
    (m : RespMode) (body : Bytes) :
    execSmRsp [m.toByte] [0x91, 0x00] body s =
      .next ((s.setLastErr ⟨0x91, 0x00⟩).clearSession.deliver ⟨.counterExhausted, []⟩) := by
  rw [execSmRsp, withByte_singleton, withPair_two, withMode_toByte, gated_open hauth, if_neg (not_not.mpr statusSuccess_eq),
    hctr, readReg_some, if_pos rfl, raise_eq]

/-- The state after SM.RSP has counted a success status (R214). -/
def State.counted (s : State) (c : BitVec 16) : State := (s.setLastErr ⟨0x91, 0x00⟩).setCmdCtr (c + 1)

/-- SM.RSP on `91 00` below the last counter value counts, then looks at the body (R214). -/
theorem execSmRsp_counts {s : State} (hauth : s.authenticated = true) {c : BitVec 16} (hctr : s.cmdCtr = some c)
    (hlast : c ≠ Config.lastCounter) (m : RespMode) (body : Bytes) :
    execSmRsp [m.toByte] [0x91, 0x00] body s = verifyResponse m body (c + 1) (s.counted c) := by
  rw [execSmRsp, withByte_singleton, withPair_two, withMode_toByte, gated_open hauth, if_neg (not_not.mpr statusSuccess_eq),
    hctr, readReg_some, if_neg hlast, State.counted]

/-! ### SM.RSP: the body -/

/-- What stands before an 8-byte MAC is the response data (R215). -/
theorem responseData_append {rdata mac : Bytes} (hmac : mac.length = 8) : responseData (rdata ++ mac) = rdata := by
  rw [responseData, slice_zero_left, List.length_append, hmac, Config.macLen, Nat.add_sub_cancel, List.take_left]

/-- The last 8 bytes are the received MAC (R215). -/
theorem receivedMac_append {rdata mac : Bytes} (hmac : mac.length = 8) : receivedMac (rdata ++ mac) = mac := by
  rw [receivedMac, slice_to_end (le_refl _), List.length_append, hmac, Config.macLen, Nat.add_sub_cancel, List.drop_left]

theorem responseData_length (body : Bytes) : (responseData body).length = body.length - 8 := by
  rw [responseData, slice_zero_left, List.length_take, Config.macLen]
  omega

/-- Which bodies cannot be processed (R215). -/
theorem malformedBody_iff (m : RespMode) (body : Bytes) :
    malformedBody m body = true ↔ body.length < 8 ∨ (m = .enciphered ∧ (body.length - 8) % 16 ≠ 0) := by
  rw [malformedBody, Bool.or_eq_true, Bool.and_eq_true, decide_eq_true_iff, decide_eq_true_iff, decide_eq_true_iff,
    responseData_length, Config.macLen, Config.blockLen]

theorem malformedBody_append {m : RespMode} {rdata mac : Bytes} (hmac : mac.length = 8)
    (hblocks : m = .enciphered → rdata.length % 16 = 0) : malformedBody m (rdata ++ mac) = false := by
  rw [← Bool.not_eq_true, malformedBody_iff, List.length_append, hmac, Nat.add_sub_cancel]
  rintro (hshort | ⟨hm, hrest⟩)
  · omega
  · exact hrest (hblocks hm)

/-- The response MAC with its input written out, counter low byte first (R216). -/
theorem responseMac_eq (mk : Block) (n : BitVec 16) (t : Quad) (rdata : Bytes) :
    responseMac mk n t rdata =
      trunc (cmac mk (0x00 :: n.extractLsb' 0 8 :: n.extractLsb' 8 8 :: t.toBytes ++ rdata)) := by
  rw [responseMac, counterBytes_eq]
  rfl

theorem responseMac_length (mk : Block) (n : BitVec 16) (t : Quad) (rdata : Bytes) :
    (responseMac mk n t rdata).length = 8 := trunc_length _

theorem verifyResponse_malformed {m : RespMode} {body : Bytes}
    (h : body.length < 8 ∨ (m = .enciphered ∧ (body.length - 8) % 16 ≠ 0)) (n : BitVec 16) (s : State) :
    verifyResponse m body n s = .next (s.deliver ⟨.malformedResponse, []⟩) := by
  rw [verifyResponse, if_pos ((malformedBody_iff m body).mpr h), raise_eq]

/-- What SM.RSP returns of good response data: as received, or deciphered under the response IV of the new counter
(R217). -/
def acceptedData (m : RespMode) (ek : Block) (t : Quad) (n : BitVec 16) (rdata : Bytes) : Bytes :=
  match m with
  | .plain => rdata
  | .enciphered => cbcDec (responseIv ek t n) ek rdata

section
variable {s : State} {m : RespMode} {ek mk : Block} {t : Quad} {rdata mac : Bytes} {n : BitVec 16}

theorem verifyResponse_macFailed (hmk : s.sesMacKey = some mk) (hti : s.ti = some t) (hlen : mac.length = 8)
    (hblocks : m = .enciphered → rdata.length % 16 = 0) (hmac : mac ≠ responseMac mk n t rdata) :
    verifyResponse m (rdata ++ mac) n s = .next (s.deliver ⟨.responseMacFailed, []⟩) := by
  rw [verifyResponse, malformedBody_append hlen hblocks, if_neg Bool.false_ne_true, hmk, readReg_some, hti, readReg_some,
    responseData_append hlen, receivedMac_append hlen, if_pos hmac.symm, raise_eq]

theorem verifyResponse_accepts (hek : s.sesEncKey = some ek) (hmk : s.sesMacKey = some mk) (hti : s.ti = some t)
    (hblocks : m = .enciphered → rdata.length % 16 = 0) :
    verifyResponse m (rdata ++ responseMac mk n t rdata) n s =
      .next (s.deliver ⟨.ok, [acceptedData m ek t n rdata]⟩) := by
  have hlen := responseMac_length mk n t rdata
  rw [verifyResponse, malformedBody_append hlen hblocks, if_neg Bool.false_ne_true, hmk, readReg_some, hti, readReg_some,
    responseData_append hlen, receivedMac_append hlen, if_neg (not_not.mpr rfl)]
  cases m with
  | plain => exact finish_eq _ s
  | enciphered => simp only [hek, readReg_some, finish_eq, acceptedData]

end

/-- SM.RSP on a session, a success status and a good MAC (R210, R214 to R217). -/
theorem execSmRsp_accepts {s : State} {ek mk : Block} {c : BitVec 16} {t : Quad} (h : s.Session ek mk c t)
    (hlast : c ≠ Config.lastCounter) {m : RespMode} {rdata : Bytes} (hblocks : m = .enciphered → rdata.length % 16 = 0) :
    execSmRsp [m.toByte] [0x91, 0x00] (rdata ++ responseMac mk (c + 1) t rdata) s =
      .next ((s.counted c).deliver ⟨.ok, [acceptedData m ek t (c + 1) rdata]⟩) := by
  rw [execSmRsp_counts h.authenticated_eq_true h.cmdCtr hlast]
  exact verifyResponse_accepts (s := s.counted c) h.sesEncKey h.sesMacKey h.ti hblocks

/-! ### The obligations -/

/-- Settles O37: each of the four passes its operand tests and meets the closed gate. -/
theorem securedGateClosed : Obligations.SecuredGateClosed := by
  intro cmdCode mode e0 e1 header plaintext body s hfirst hnonFirst hblocks hfits hmode refused
  have hauth : s.authenticated = false := by rw [State.authenticated, hfirst, hnonFirst, Bool.or_self]
  obtain ⟨m, rfl⟩ := exists_mode_toByte hmode
  exact ⟨execSmIvc_closed hauth, execSmIvr_closed hauth, execSmCmd_gate_closed hauth cmdCode hblocks hfits,
    execSmRsp_gate_closed hauth m ⟨e0, e1⟩ body⟩

/-- Settles O40: lengths before the mode's value, before any register. -/
theorem codecRefusesBadOperands : Obligations.CodecRefusesBadOperands := by
  intro a b c s operandLength
  refine ⟨fun hbad => execSmCmd_bad hbad s, fun hbad => execSmRsp_badLength hbad c s, fun m ha hb hm => ?_⟩
  obtain ⟨e0, e1, rfl⟩ := List.length_eq_two.mp hb
  subst ha
  exact execSmRsp_badMode hm ⟨e0, e1⟩ c s

/-- Settles O41: the MAC written out is the response MAC. -/
theorem smRspAccepts : Obligations.SmRspAccepts := by
  intro rdata ek mk c t s h hlast n mac
  have mac_eq : mac = responseMac mk n t rdata := (responseMac_eq mk n t rdata).symm
  rw [mac_eq]
  exact ⟨execSmRsp_accepts (m := .plain) h hlast nofun,
    fun hblocks => execSmRsp_accepts (m := .enciphered) h hlast fun _ => hblocks⟩

/-- Settles O42: what is accepted deciphers to what the card enciphered under the same IV. -/
theorem cardResponseRecovered : Obligations.CardResponseRecovered := by
  intro p ek mk c t s h hlast hp d
  have d_blocks : d.length % 16 = 0 := by rw [cbcEnc_length _ _ _ hp, hp]
  have deciphered : acceptedData .enciphered ek t (c + 1) d = p := cbcDec_cbcEnc _ _ hp
  have accepts := execSmRsp_accepts (m := .enciphered) h hlast fun _ => d_blocks
  rw [deciphered] at accepts
  exact accepts

/-- Settles O43: the pair is looked at before the counter. -/
theorem smRspStatusRefused : Obligations.SmRspStatusRefused := by
  intro mode e0 e1 body s hauth hmode hst
  obtain ⟨m, rfl⟩ := exists_mode_toByte hmode
  have hne : (⟨e0, e1⟩ : StatusPair) ≠ Config.statusSuccess := fun heq => hst (by simpa [Config.statusSuccess] using heq)
  exact execSmRsp_status hauth hne m body

/-- Settles O44: the counter is looked at before the body. -/
theorem smRspCounterExhausted : Obligations.SmRspCounterExhausted := by
  intro mode body s hauth hmode hctr
  obtain ⟨m, rfl⟩ := exists_mode_toByte hmode
  exact execSmRsp_exhausted hauth hctr m body

/-- Only the enciphered mode has the byte 01 (R211). -/
theorem RespMode.toByte_eq_one_iff (m : RespMode) : m.toByte = 0x01 ↔ m = .enciphered := by cases m <;> decide

/-- Settles O45: the counter is counted before the body is looked at. -/
theorem smRspMalformed : Obligations.SmRspMalformed := by
  intro mode body c s hauth hmode hctr hlast hbody
  obtain ⟨m, rfl⟩ := exists_mode_toByte hmode
  rw [RespMode.toByte_eq_one_iff] at hbody
  exact (execSmRsp_counts hauth hctr hlast m body).trans (verifyResponse_malformed hbody (c + 1) (s.counted c))

/-- Settles O46: the MAC written out is the response MAC, and the counter is counted before it is compared. -/
theorem smRspMacFailed : Obligations.SmRspMacFailed := by
  intro mode rdata mac ek mk c t s h hlast hmode hlen hblocks hmac
  obtain ⟨m, rfl⟩ := exists_mode_toByte hmode
  rw [RespMode.toByte_eq_one_iff] at hblocks
  rw [← responseMac_eq] at hmac
  exact (execSmRsp_counts h.authenticated_eq_true h.cmdCtr hlast m (rdata ++ mac)).trans
    (verifyResponse_macFailed (s := s.counted c) h.sesMacKey h.ti hlen hblocks hmac)

end Sys2Proof.Machine
end

section
/-! PROOFS. The host's two procedures (47_host_interface.md R240 to R242): cut by the transport at each exchange, and carried
through with a card that follows the protocol. -/

namespace Sys2Proof.Machine

open Sys2Proof

/-! ### Issuing and abandoning -/

/-- An operation issued to the engine that it answers with OK and one output field. -/
theorem issueOk_exec {i : Instr} {sent : List Bytes} {s t : State} {out : Bytes} {body : Bytes → State → HostOutcome}
    (hwf : i.WellFormed) (hexec : exec i s = .next t) (hr : t.result = some ⟨.ok, [out]⟩) :
    issueOk i sent s body = body out t := issueOk_next hwf ((step_offer_encode hwf s).trans hexec) hr

theorem wellFormed_ssClear : Instr.WellFormed .ssClear := nofun

theorem wellFormed_ssSeterr (p : StatusPair) : Instr.WellFormed (.ssSeterr p.toBytes) := by
  simp [Instr.WellFormed, Instr.operands, Config.maxField]

/-- The end of a secured command that was cut: LASTERR is written, nothing else (R241, R242). -/
theorem abandonCommand_eq (s : State) (sent : List Bytes) :
    abandonCommand s sent =
      .next ⟨.transport, sent, (s.setLastErr Config.transportErrcode).deliver ⟨.ok, []⟩⟩ := by
  have seterr := (step_offer_encode (wellFormed_ssSeterr Config.transportErrcode) s).trans (execSsSeterr_pair _ _ s)
  rw [abandonCommand, issueOp_next (wellFormed_ssSeterr _) seterr (State.deliver_result ..)]

/-- The end of an authentication that was cut: the full clear action, then LASTERR (R240). -/
theorem abandonHandshake_eq (s : State) (sent : List Bytes) :
    abandonHandshake s sent =
      .next ⟨.transport, sent, (s.clearSession.setLastErr Config.transportErrcode).deliver ⟨.ok, []⟩⟩ := by
  have clear := (step_offer_encode wellFormed_ssClear s).trans (execSsClear_eq s)
  have seterr := (step_offer_encode (wellFormed_ssSeterr Config.transportErrcode) (s.clearSession.deliver ⟨.ok, []⟩)).trans
    (execSsSeterr_pair _ _ _)
  rw [abandonHandshake, issueOp_next wellFormed_ssClear clear (State.deliver_result ..),
    issueOp_next (wellFormed_ssSeterr _) seterr (State.deliver_result ..)]
  rfl

/-! ### A secured command that was lost -/

/-- SM.CMD that ends with OK changes nothing but the record (R205). -/
theorem exec_smCmd_ok {cmdCode header plaintext : Bytes} {s t : State} {outs : List Bytes}
    (h : exec (.smCmd cmdCode header plaintext) s = .next t) (hr : t.result = some ⟨.ok, outs⟩) :
    t = s.deliver ⟨.ok, outs⟩ := by
  obtain ⟨c, hc, always⟩ | hform := execSmCmd_form cmdCode header plaintext
  · cases (always s).symm.trans h
    cases hr
    exact absurd hc (by decide)
  · obtain ⟨-, rfl⟩ | ⟨-, out, rfl⟩ := hform s t h
    · cases hr
    · cases hr
      rfl

/-- Settles O58: SM.CMD left only its record, and the end of a cut command writes only LASTERR. -/
theorem lostCommandLeavesSession : Obligations.LostCommandLeavesSession := by
  intro cmdCode c data s t hwf hexec hr hfits
  obtain rfl := exec_smCmd_ok hexec hr
  rw [hostSecuredCommand, issueOk_exec hwf hexec hr, exchange_lost (reply := none) hfits nofun, abandonCommand_eq]
  rfl

/-! ### The first half of an authentication -/

/-- A byte up to 14 is a key number (R8). -/
theorem exists_keyNo {b : Byte} (h : b ≤ 0x0E) : ∃ n : Fin 15, b.toNat = n.val :=
  ⟨⟨b.toNat, by bv_omega⟩, rfl⟩

/-- The parameter bytes as the host gets them (R174). -/
def startBytes (v : Variant) (keyNo : Byte) : Bytes := if v = .first then [keyNo, 0x00] else [keyNo]

theorem startBytes_length (v : Variant) (keyNo : Byte) : (startBytes v keyNo).length ≤ 255 := by
  cases v <;> simp [startBytes]

theorem wellFormed_authStart (v : Variant) (keyNo : Byte) {authKey : Bytes} (hkey : authKey.length = 16) :
    Instr.WellFormed (.authStart [v.toByte] [keyNo] authKey) := by
  simp [Instr.WellFormed, Instr.operands, Config.maxField, hkey]

theorem wellFormed_authChal (e0 e1 : Byte) {body : Bytes} (h : body.length ≤ 65535) :
    Instr.WellFormed (.authChal [e0, e1] body) := by
  simpa [Instr.WellFormed, Instr.operands, Config.maxField] using h

theorem wellFormed_authFin (e0 e1 : Byte) {body : Bytes} (h : body.length ≤ 65535) :
    Instr.WellFormed (.authFin [e0, e1] body) := by
  simpa [Instr.WellFormed, Instr.operands, Config.maxField] using h

section
variable {v : Variant} {keyNo : Byte} {n : Fin 15} {authKey : Bytes} {s : State}

/-- The host's AUTH.START opens the handshake (R171). -/
theorem exec_authStart_opens (hn : keyNo.toNat = n.val) (hkey : authKey.length = 16)
    (hprior : v = .nonFirst → s.cmdCtr.isSome = true ∧ s.ti.isSome = true) :
    exec (.authStart [v.toByte] [keyNo] authKey) s =
      .next (s.started v n (Block.ofBytes authKey) [startBytes v keyNo]) := execAuthStart_opens hn hkey hprior

/-- The procedure cut at its first exchange (R231, R240). -/
theorem hostAuthenticate_lost_first (hn : keyNo.toNat = n.val) (hkey : authKey.length = 16)
    (hprior : v = .nonFirst → s.cmdCtr.isSome = true ∧ s.ti.isSome = true) {lost : Option Bytes}
    (hlost : ∀ reply, lost = some reply → reply.length < 2) (reply2 : Option Bytes) :
    hostAuthenticate v keyNo authKey lost reply2 s =
      .next ⟨.transport, [wrap (authCmd v) (startBytes v keyNo)],
        (s.clearSession.setLastErr Config.transportErrcode).deliver ⟨.ok, []⟩⟩ := by
  rw [hostAuthenticate, issueOk_exec (wellFormed_authStart v keyNo hkey) (exec_authStart_opens hn hkey hprior) rfl,
    exchange_lost (startBytes_length v keyNo) hlost, abandonHandshake_eq]
  cases v <;> rfl

/-- The procedure up to its second exchange, on a first reply with `91 AF` and one block (R240). -/
theorem hostAuthenticate_second (hn : keyNo.toNat = n.val) (hkey : authKey.length = 16)
    (hprior : v = .nonFirst → s.cmdCtr.isSome = true ∧ s.ti.isSome = true) {body1 : Bytes} (hbody : body1.length = 16)
    (reply2 : Option Bytes) :
    let k := Block.ofBytes authKey
    let randB := aesDec k (Block.ofBytes body1)
    let msg2 := secondMessage k s.nextDraw randB
    let s2 := (s.started v n k [startBytes v keyNo]).challenged randB msg2
    hostAuthenticate v keyNo authKey (some (body1 ++ [0x91, 0xAF])) reply2 s =
      exchange Config.authCmd2 msg2 reply2 [wrap (authCmd v) (startBytes v keyNo)] s2 (abandonHandshake s2)
        fun body2 st2 sent2 => issueOk (.authFin st2 body2) sent2 s2 fun caps s3 => .next ⟨.success [caps], sent2, s3⟩ := by
  intro k randB msg2 s2
  have chal : exec (.authChal [0x91, 0xAF] body1) (s.started v n k [startBytes v keyNo]) = .next s2 := by
    have ok := execAuthChal_ok (s.started_hsPhase v n k [startBytes v keyNo]) (State.started_hsAuthKey ..) hbody
    rw [s.started_nextDraw] at ok
    rw [exec_authChal, ok]
    simp only [s2, State.challenged, s.started_nextDraw, msg2, randB]
  rw [hostAuthenticate, issueOk_exec (wellFormed_authStart v keyNo hkey) (exec_authStart_opens hn hkey hprior) rfl,
    exchange_reply (startBytes_length v keyNo),
    issueOk_exec (wellFormed_authChal 0x91 0xAF (by rw [hbody]; omega)) chal rfl]
  rfl

end

/-! ### An authentication that was lost -/

theorem secondMessage_length (k randA randB : Block) : (secondMessage k randA randB).length = 32 := by
  rw [secondMessage_eq, List.length_append, Block.toBytes_length, Block.toBytes_length]

/-- Settles O59: whichever exchange is cut, the clear action and the transport code follow. -/
theorem lostHandshakeClears : Obligations.LostHandshakeClears := by
  intro v keyNo authKey lost s hkeyNo hkey hprior hlost param abandoned
  obtain ⟨n, hn⟩ := exists_keyNo hkeyNo
  refine ⟨s.clearSession_cleared, hostAuthenticate_lost_first hn hkey hprior hlost, ?_⟩
  intro body1 hbody k randB msg2
  have msg2_length : (secondMessage k s.nextDraw randB).length ≤ 255 := by rw [secondMessage_length]; omega
  rw [hostAuthenticate_second hn hkey hprior hbody, exchange_lost msg2_length hlost, abandonHandshake_eq]
  cases v <;> rfl

/-! ### An authentication carried through -/

/-- Settles O60: the card's two replies bring the procedure to AUTH.FIN, which commits. -/
theorem hostAuthenticatesFirst : Obligations.HostAuthenticatesFirst := by
  intro keyNo k randB ti caps s hkeyNo hcaps randA reply1 reply2
  obtain ⟨n, hn⟩ := exists_keyNo hkeyNo
  obtain ⟨plain_length, ti_eq, rot_eq, caps_eq⟩ := finalReply_first ti randA hcaps
  have body1_length : (cbcEnc Block.zero k randB.toBytes).length = 16 := by
    rw [cbcEnc_zero_toBytes, Block.toBytes_length]
  have body2_length : (cbcEnc Block.zero k (ti.toBytes ++ rotL1 randA.toBytes ++ caps)).length = 32 := by
    rw [cbcEnc_length _ _ _ (by rw [plain_length]), plain_length]
  have randB_eq : aesDec k (Block.ofBytes (cbcEnc Block.zero k randB.toBytes)) = randB := by
    rw [cbcEnc_zero_toBytes, Block.ofBytes_toBytes, aesDec_aesEnc]
  have second := hostAuthenticate_second (v := .first) (s := s) hn k.toBytes_length nofun body1_length (some reply2)
  have msg2_length : (secondMessage k randA randB).length ≤ 255 := by rw [secondMessage_length]; omega
  have fin := execAuthFin_honest (s.challenged_awaitsFinal .first n k randB [startBytes .first keyNo]
    (secondMessage k randA randB)) plain_length rot_eq
  rw [caps_eq, State.commitSession_first, ti_eq] at fin
  simp only [Block.ofBytes_toBytes, randB_eq] at second
  rw [exchange_reply msg2_length,
    issueOk_exec (wellFormed_authFin 0x91 0x00 (by rw [body2_length]; omega)) fin rfl] at second
  exact ⟨_, _, second, rfl, rfl, rfl, rfl⟩

end Sys2Proof.Machine
end
